-- ==== Sys2Proof/Word.lean ====
section
/-! DEFINITION. The words of the block (00_scope.md R13). -/

namespace Sys2Proof

/-- A word is 64 bits (00_scope.md R13). -/
abbrev Word := BitVec 64

/-- A control and status register, and a command word, is 32 bits (00_scope.md R13). -/
abbrev Reg32 := BitVec 32

end Sys2Proof
end

