-- ==== Sys2Proof/Config.lean ====
section
/-! DEFINITION. What is fixed for one block (the parameter LOGN_MAX and what follows from it) and the
values the spec leaves free. -/

namespace Sys2Proof

/-- TransformDirection: `DIR = 0` forward, `DIR = 1` inverse (00_scope.md R17). -/
inductive Dir where
  | forward
  | inverse
deriving DecidableEq, Repr

/-- Twiddle mode: `TWM = 0` recurrence, `TWM = 1` table (00_scope.md R17). -/
inductive TwMode where
  | recurrence
  | table
deriving DecidableEq, Repr

/-- The parameter of a block: `LOGN_MAX`, `1 <= LOGN_MAX <= 22` (00_scope.md R6). The type holds exactly the
22 admitted values: `lognLess1` is `LOGN_MAX - 1` (DESIGN CHOICE, safe, log 3). -/
structure Config where
  lognLess1 : Fin 22
deriving DecidableEq, Repr

namespace Config

/-- `LOGN_MAX` (00_scope.md R6). -/
def logn (c : Config) : Nat := c.lognLess1.val + 1

/-- `NMAX = 2^LOGN_MAX` (00_scope.md R6). -/
def nmax (c : Config) : Nat := 2 ^ c.logn

/-- `DMEM_WORDS = 2 * NMAX` (00_scope.md R7). -/
def dmemWords (c : Config) : Nat := 2 * c.nmax

/-- `TWT_ENTRIES = 2 * NMAX - 1` (00_scope.md R8). -/
def twtEntries (c : Config) : Nat := 2 * c.nmax - 1

/-- The default `LOGN_MAX = 12` (00_scope.md R6). -/
def default12 : Config := ⟨11⟩

/-- NAN_CHOICE (40_numerics.md R85, 93 U1): the bits from which draw number `q` makes its NaN. A free value: no
body, so nothing can be proved of it (DESIGN CHOICE, safe for one run, log 7). -/
opaque nanChoice : Nat → Word

/-- RESET_DMEM (70_reset_and_hazards.md R212, 93 U2): the pattern that reset number `epoch` leaves in DMEM word
`i`. A free value (DESIGN CHOICE, safe, log 5). -/
opaque resetDmem : (epoch i : Nat) → Word

/-- RESET_TWT (70_reset_and_hazards.md R212, 93 U3): the pair that reset number `epoch` leaves in entry `e` of the
table of direction `d`. A free value (DESIGN CHOICE, safe, log 5). -/
opaque resetTwt : (epoch : Nat) → (d : Dir) → (e : Nat) → Word × Word

/-- What reset number `epoch` leaves in working register `k` (0 WR, 1 WI, 2 CT, 3 ST; 70_reset_and_hazards.md
R213, 93 U4). A free value (DESIGN CHOICE, safe, log 6). -/
opaque resetWork : (epoch k : Nat) → Word

end Config

end Sys2Proof
end

