-- ==== Sys2Proof/Machine/Float.lean ====
section
/-! DEFINITION. The binary64 primitives `fadd`, `fsub`, `fmul` (40_numerics.md R80 to R88): operands are read as
exact integer multiples of a power of two, the exact result is formed, and it is rounded once. -/

namespace Sys2Proof.Machine

/-- Bit 63 (40_numerics.md R80). -/
def signOf (w : Word) : Bool := w.getLsbD 63

/-- The biased exponent `E`, bits 62:52 (40_numerics.md R80). -/
def expOf (w : Word) : Nat := (w.extractLsb' 52 11).toNat

/-- The fraction `F`, bits 51:0 (40_numerics.md R80). -/
def fracOf (w : Word) : Nat := (w.extractLsb' 0 52).toNat

/-- `E = 2047, F != 0` (40_numerics.md R80). -/
def isNaN (w : Word) : Bool := expOf w == 2047 && fracOf w != 0

/-- `E = 2047, F = 0` (40_numerics.md R80). -/
def isInf (w : Word) : Bool := expOf w == 2047 && fracOf w == 0

/-- `E = 0, F = 0` (40_numerics.md R80). -/
def isZero (w : Word) : Bool := expOf w == 0 && fracOf w == 0

/-- A finite datum: `E <= 2046` (40_numerics.md R80). -/
def isFinite (w : Word) : Bool := expOf w != 2047

/-- The magnitude of a finite datum as a multiple of `2^-1074` (40_numerics.md R80): `F` when `E = 0`, else
`(2^52 + F) * 2^(E-1)`. -/
def magOf (w : Word) : Nat :=
  if expOf w = 0 then fracOf w else (2 ^ 52 + fracOf w) * 2 ^ (expOf w - 1)

/-- The value of a finite datum as a multiple of `2^-1074`, sign included. -/
def valueOf (w : Word) : Int := if signOf w then -(magOf w : Int) else (magOf w : Int)

/-- The bits 62:0 of an infinity. -/
def infBits : Nat := 2047 * 2 ^ 52

/-- A word from its sign and its bits 62:0. -/
def packWord (neg : Bool) (bits : Nat) : Word := BitVec.ofBool neg ++ BitVec.ofNat 63 bits

/-- `n / 2^drop` rounded to an integer, to nearest, ties to the even one (40_numerics.md R84). -/
def roundEven (n drop : Nat) : Nat :=
  let q := n / 2 ^ drop
  let r := n % 2 ^ drop
  if 2 * r > 2 ^ drop ∨ (2 * r = 2 ^ drop ∧ q % 2 = 1) then q + 1 else q

/-- Bits 62:0 of the binary64 magnitude nearest to `n * 2^-(1074 + sh)`, ties to even, with gradual underflow and
overflow to infinity (40_numerics.md R84, R87). `drop` low bits are rounded away: all but 53 significant ones, and in
any case those below `2^-1074`. A carry into the next binade carries into the exponent field by the addition. -/
def roundBits (n sh : Nat) : Nat :=
  let drop := max sh (Nat.log2 n - 52)
  min infBits ((drop - sh) * 2 ^ 52 + roundEven n drop)

/-- The NaN that draw number `q` makes: any NaN pattern, sign, quiet bit and payload free (40_numerics.md R85). The
forced bits make `E = 2047` and `F != 0`; a draw that is a NaN already is taken as it is. -/
def nanOf (q : Nat) : Word :=
  let c := Config.nanChoice q
  if fracOf c = 0 then c ||| 0x7FF8000000000000#64 else c ||| 0x7FF0000000000000#64

/-- `fneg` inverts bit 63 of any datum, a NaN included (00_scope.md R16, 40_numerics.md R82). -/
def fneg (a : Word) : Word := a ^^^ 0x8000000000000000#64

/-- The binary64 sum where it is a number; `none` where the result is a NaN (40_numerics.md R81, R84, R85). An exact
sum of zero is `-0` only when both operands are negative (then both are `-0`), else `+0`. -/
def addNum (a b : Word) : Option Word :=
  if isNaN a || isNaN b then none
  else if isInf a then (if isInf b && signOf a != signOf b then none else some a)
  else if isInf b then some b
  else
    let sum := valueOf a + valueOf b
    let neg := if sum = 0 then signOf a && signOf b else decide (sum < 0)
    some (packWord neg (roundBits sum.natAbs 0))

/-- The binary64 product where it is a number; `none` where the result is a NaN (40_numerics.md R83 to R85). -/
def mulNum (a b : Word) : Option Word :=
  if isNaN a || isNaN b then none
  else
    let neg := signOf a != signOf b
    if isInf a || isInf b then (if isZero a || isZero b then none else some (packWord neg infBits))
    else some (packWord neg (roundBits (magOf a * magOf b) 1074))

/-- `fadd(a, b)`, a NaN result taken from draw `q` (40_numerics.md R81, R85). -/
def fadd (q : Nat) (a b : Word) : Word := (addNum a b).getD (nanOf q)

/-- `fsub(a, b) = fadd(a, fneg(b))` (40_numerics.md R82). -/
def fsub (q : Nat) (a b : Word) : Word := fadd q a (fneg b)

/-- `fmul(a, b)`, a NaN result taken from draw `q` (40_numerics.md R83, R85). -/
def fmul (q : Nat) (a b : Word) : Word := (mulNum a b).getD (nanOf q)

/-- `1.0` (00_scope.md R16). -/
def one64 : Word := 0x3FF0000000000000#64

/-- `+0.0` (00_scope.md R16). -/
def zero64 : Word := 0x0000000000000000#64

/-- `0.5` (00_scope.md R16). -/
def half64 : Word := 0x3FE0000000000000#64

/-- `-0.5` (00_scope.md R16). -/
def negHalf64 : Word := 0xBFE0000000000000#64

/-- `2^-r` is the word `(1023 - r) << 52` (00_scope.md R16). -/
def pow2Neg (r : Nat) : Word := BitVec.ofNat 64 ((1023 - r) * 2 ^ 52)

end Sys2Proof.Machine
end

