-- ==== Sys2Proof/Syntax.lean ====
section
/-! DEFINITION. The commands: one constructor per row of spec/opcode_table.json (30_encoding.md R66). -/

namespace Sys2Proof

/-- A command as decoded (30_encoding.md R64, R66). The operand is the `LEN` field as an unsigned integer
(R63): `size` for INIT, the signal length in words for the others. -/
inductive Instr where
  /-- `NOP` (45_command_control.md R173). -/
  | nop
  /-- `INIT size` (42_twiddle.md R119). -/
  | init (size : Nat)
  /-- `PERMUTE len` (41_bitrev.md R105). -/
  | permute (len : Nat)
  /-- `XFORM.F.R len` (43_butterfly.md R137). -/
  | xformFR (len : Nat)
  /-- `XFORM.I.R len` (43_butterfly.md R137). -/
  | xformIR (len : Nat)
  /-- `XFORM.F.T len` (43_butterfly.md R137). -/
  | xformFT (len : Nat)
  /-- `XFORM.I.T len` (43_butterfly.md R137). -/
  | xformIT (len : Nat)
  /-- `RXFORM.F.R len` (44_realfft.md R157). -/
  | rxformFR (len : Nat)
  /-- `RXFORM.I.R len` (44_realfft.md R158). -/
  | rxformIR (len : Nat)
  /-- `RXFORM.F.T len` (44_realfft.md R157). -/
  | rxformFT (len : Nat)
  /-- `RXFORM.I.T len` (44_realfft.md R158). -/
  | rxformIT (len : Nat)
deriving DecidableEq, Repr

namespace Instr

/-- The value of the `LEN` field of a command; `NOP` has `LEN = 0` (30_encoding.md R61, R63). -/
def lenField : Instr → Nat
  | .nop => 0
  | .init size => size
  | .permute len => len
  | .xformFR len => len
  | .xformIR len => len
  | .xformFT len => len
  | .xformIT len => len
  | .rxformFR len => len
  | .rxformIR len => len
  | .rxformFT len => len
  | .rxformIT len => len

end Instr

end Sys2Proof
end

