-- ==== Sys2Proof/WellFormed.lean ====
section
/-! DEFINITION. Which terms of `Instr` are commands: those whose `LEN` fits its 24-bit field (30_encoding.md R61,
R69). A length the command does not admit is no matter of well-formedness (R64): it completes with InvalidLength. -/

namespace Sys2Proof

/-- `LEN` is a 24-bit unsigned field (30_encoding.md R61, R63). -/
def lenFits (len : Nat) : Bool := decide (len < 2 ^ 24)

/-- The check, one line per constructor (30_encoding.md R61: the other fields are fixed by the constructor). -/
def Instr.wellFormed : Instr → Bool
  | .nop => true
  | .init size => lenFits size
  | .permute len => lenFits len
  | .xformFR len => lenFits len
  | .xformIR len => lenFits len
  | .xformFT len => lenFits len
  | .xformIT len => lenFits len
  | .rxformFR len => lenFits len
  | .rxformIR len => lenFits len
  | .rxformFT len => lenFits len
  | .rxformIT len => lenFits len

end Sys2Proof
end

