-- ==== Sys2Proof/Decode.lean ====
section
/-! DEFINITION. Decoding of command words, total, rejecting by name (30_encoding.md R61 to R66), and the encoder
written from the same table (R61, R69). -/

namespace Sys2Proof

/-- Why a word is `Illegal` (30_encoding.md R65). The block reports one code for all of them (60_exceptions.md
R193); the names are for the reader. -/
inductive Illegal where
  /-- `RSV != 0`. -/
  | reservedBits
  /-- `OPC = 0` with `DIR`, `TWM` or `LEN` nonzero. -/
  | nopArgument
  /-- `OPC = 1` (INIT) with `DIR` or `TWM` nonzero. -/
  | initMode
  /-- `OPC = 2` (PERMUTE) with `DIR` or `TWM` nonzero. -/
  | permuteMode
  /-- `OPC` in 0x5 .. 0xF. -/
  | reservedOpcode
deriving DecidableEq, Repr

/-- `OPC`, bits 3:0 (30_encoding.md R61). -/
def opcField (w : Reg32) : Nat := (w.extractLsb' 0 4).toNat

/-- `DIR`, bit 4 (30_encoding.md R61). -/
def dirField (w : Reg32) : Bool := w.getLsbD 4

/-- `TWM`, bit 5 (30_encoding.md R61). -/
def twmField (w : Reg32) : Bool := w.getLsbD 5

/-- `RSV`, bits 7:6 (30_encoding.md R61). -/
def rsvField (w : Reg32) : Nat := (w.extractLsb' 6 2).toNat

/-- `LEN`, bits 31:8, an unsigned integer, not scaled, not shifted, not sign-extended (30_encoding.md R61, R63). -/
def lenOf (w : Reg32) : Nat := (w.extractLsb' 8 24).toNat

/-- The four variants of `XFORM`, by `DIR` and `TWM` (30_encoding.md R66). -/
def xformVariant (dir twm : Bool) (len : Nat) : Instr :=
  match dir, twm with
  | false, false => .xformFR len
  | true, false => .xformIR len
  | false, true => .xformFT len
  | true, true => .xformIT len

/-- The four variants of `RXFORM`, by `DIR` and `TWM` (30_encoding.md R66). -/
def rxformVariant (dir twm : Bool) (len : Nat) : Instr :=
  match dir, twm with
  | false, false => .rxformFR len
  | true, false => .rxformIR len
  | false, true => .rxformFT len
  | true, true => .rxformIT len

/-- `decode`, in the order of the rule's lines (30_encoding.md R64). -/
def decode (w : Reg32) : Except Illegal Instr :=
  if rsvField w ≠ 0 then .error .reservedBits
  else
    match opcField w with
    | 0 => if dirField w || twmField w || lenOf w != 0 then .error .nopArgument else .ok .nop
    | 1 => if dirField w || twmField w then .error .initMode else .ok (.init (lenOf w))
    | 2 => if dirField w || twmField w then .error .permuteMode else .ok (.permute (lenOf w))
    | 3 => .ok (xformVariant (dirField w) (twmField w) (lenOf w))
    | 4 => .ok (rxformVariant (dirField w) (twmField w) (lenOf w))
    | _ => .error .reservedOpcode

/-- The low byte of a row of the opcode map: `RSV`, `TWM`, `DIR`, `OPC` (30_encoding.md R66, column match). -/
def Instr.lowByte : Instr → BitVec 8
  | .nop => 0x00#8
  | .init _ => 0x01#8
  | .permute _ => 0x02#8
  | .xformFR _ => 0x03#8
  | .xformIR _ => 0x13#8
  | .xformFT _ => 0x23#8
  | .xformIT _ => 0x33#8
  | .rxformFR _ => 0x04#8
  | .rxformIR _ => 0x14#8
  | .rxformFT _ => 0x24#8
  | .rxformIT _ => 0x34#8

/-- `word = (len << 8) | (twm << 5) | (dir << 4) | opc` (30_encoding.md R69). -/
def encode (i : Instr) : Reg32 := BitVec.ofNat 24 i.lenField ++ i.lowByte

/-- A row of the opcode map as mask and match over the word (30_encoding.md R66). -/
structure OpcodeRow where
  mask : Reg32
  value : Reg32
deriving DecidableEq, Repr

/-- The row of each command (30_encoding.md R66). -/
def Instr.row : Instr → OpcodeRow
  | .nop => ⟨0xFFFFFFFF#32, 0x00000000#32⟩
  | .init _ => ⟨0x000000FF#32, 0x00000001#32⟩
  | .permute _ => ⟨0x000000FF#32, 0x00000002#32⟩
  | .xformFR _ => ⟨0x000000FF#32, 0x00000003#32⟩
  | .xformIR _ => ⟨0x000000FF#32, 0x00000013#32⟩
  | .xformFT _ => ⟨0x000000FF#32, 0x00000023#32⟩
  | .xformIT _ => ⟨0x000000FF#32, 0x00000033#32⟩
  | .rxformFR _ => ⟨0x000000FF#32, 0x00000004#32⟩
  | .rxformIR _ => ⟨0x000000FF#32, 0x00000014#32⟩
  | .rxformFT _ => ⟨0x000000FF#32, 0x00000024#32⟩
  | .rxformIT _ => ⟨0x000000FF#32, 0x00000034#32⟩

/-- A word matches a row (30_encoding.md R66). -/
def OpcodeRow.matches (r : OpcodeRow) (w : Reg32) : Bool := w &&& r.mask == r.value

/-- The eleven rows, the whole command set (30_encoding.md R66). -/
def opcodeRows : List OpcodeRow :=
  [Instr.row .nop, Instr.row (.init 0), Instr.row (.permute 0), Instr.row (.xformFR 0), Instr.row (.xformIR 0),
   Instr.row (.xformFT 0), Instr.row (.xformIT 0), Instr.row (.rxformFR 0), Instr.row (.rxformIR 0),
   Instr.row (.rxformFT 0), Instr.row (.rxformIT 0)]

/-- The command read from an instruction whose bits are `w`, `nbits` of them, bits above being 0. A command is one
32-bit word with no byte order (30_encoding.md R60, 20_memory.md R46). -/
def decodeTableWord (nbits w : Nat) : Option Instr :=
  (decode (BitVec.ofNat 32 (w % 2 ^ nbits))).toOption

end Sys2Proof
end

