-- ==== Sys2Proof/Machine/State.lean ====
section
/-! DEFINITION. The state of one block as plain data: everything 10_state.md R20 gives it, and the model's own
fields (the parameter, the draw counters, the inbox of events, the last response). -/

namespace Sys2Proof.Machine

/-- Why a step stops with a fault. The spec has no such stop: each constructor stands where the spec says nothing can
get to. -/
inductive Fault where
  /-- Raised by performing a micro-operation of `PEND` one of whose element indices does not exist. 20_memory.md R47:
  "Micro-operations never produce an out-of-range index". Safe (log 9). -/
  | microOpIndex
  /-- Raised by a turn of SEQ with `BUSY = 1` and `PEND` empty. 45_command_control.md R177: enabled "exactly when BUSY
  = 1 (PEND is then non-empty)". Safe (log 10). -/
  | pendEmptyWhileBusy
deriving DecidableEq, Repr

/-- Why an instruction has no meaning. -/
inductive Refusal where
  /-- Raised by an arm of `exec` whose instruction is not modelled yet. No arm of this model raises it. Safe. -/
  | notModelled (mnemonic : String)
deriving DecidableEq, Repr

/-- The result codes (60_exceptions.md R190). -/
inductive ErrCode where
  | ok
  | invalidLength
  | uninitializedTable
  | illegalCommand
deriving DecidableEq, Repr

/-- The micro-operations with their operands (30_encoding.md R68), and the marker `FINISH` (45_command_control.md
R171). `rpair` carries the real length `N` that R150 takes from the running command (log 14). -/
inductive MicroOp where
  | swapc (a b : Nat)
  | twseed (s : Nat) (d : Dir)
  | twstep
  | twload (d : Dir) (e : Nat)
  | twstore (d : Dir) (e : Nat)
  | tset (size : Nat)
  | bfly (k j : Nat)
  | scale (i r : Nat)
  | rpair (j : Nat) (d : Dir) (n : Nat)
  | rdc (d : Dir)
  | finish (code : ErrCode)
deriving DecidableEq, Repr

/-- The host-visible index spaces (20_memory.md R40). -/
inductive Space where
  | csr
  | dmem
  | twt
deriving DecidableEq, Repr

/-- A transaction of the host port (20_memory.md R42): a value is 32 bits for CSR space and 64 bits for DMEM and TWT
space. -/
inductive Txn where
  | read (space : Space) (index : Nat)
  | writeCsr (index : Nat) (value : Reg32)
  | writeDmem (index : Nat) (value : Word)
  | writeTwt (index : Nat) (value : Word)
deriving DecidableEq, Repr

/-- The response to a transaction (20_memory.md R42). -/
inductive Response where
  /-- `Ok` of a write. -/
  | ok
  /-- `Ok(value)` of a CSR read. -/
  | reg (value : Reg32)
  /-- `Ok(value)` of a DMEM or TWT read. -/
  | word (value : Word)
  /-- `Err`. -/
  | err
deriving DecidableEq, Repr

/-- What happens next (DESIGN CHOICE, log 1, log 2). -/
inductive Event where
  /-- The host issues a transaction. A CMD write is acceptance only; the turns of SEQ stand behind it. -/
  | host (t : Txn)
  /-- The host writes `w` to CMD and SEQ completes the command before the next transaction: the atomic big step of
  45_command_control.md R176 (latency zero of 93 U10). -/
  | call (w : Reg32)
  /-- SEQ performs one micro-operation (45_command_control.md R177). -/
  | seq
  /-- Reset (70_reset_and_hazards.md R210). -/
  | reset
deriving DecidableEq, Repr

/-- A memory of elements of one type: (index, element) pairs, indices strictly rising, an index listed exactly when the
element was written since the last reset (log 4, log 5). -/
abbrev Mem (α : Type) := List (Nat × α)

/-- The state of one block (10_state.md R20). -/
structure State where
  /-- The parameter of the block, written by nothing (00_scope.md R6; the model's own field, log 3). -/
  cfg : Config
  /-- DMEM (10_state.md R21). -/
  dmem : Mem Word
  /-- TWT[0], forward: entries `(re, im)` (10_state.md R22). -/
  twtF : Mem (Word × Word)
  /-- TWT[1], inverse (10_state.md R22). -/
  twtI : Mem (Word × Word)
  /-- TBL_VALID (10_state.md R23). -/
  tblValid : Bool
  /-- TBL_SIZE (10_state.md R23). -/
  tblSize : BitVec 24
  /-- STATUS.BUSY (10_state.md R24). -/
  busy : Bool
  /-- STATUS.DONE (10_state.md R24). -/
  done : Bool
  /-- STATUS.ERR (10_state.md R24). -/
  err : BitVec 4
  /-- CMD (10_state.md R25). -/
  cmd : Reg32
  /-- PEND (10_state.md R28). -/
  pend : List MicroOp
  /-- WR (10_state.md R27). -/
  wr : Word
  /-- WI (10_state.md R27). -/
  wi : Word
  /-- CT (10_state.md R27). -/
  ct : Word
  /-- ST (10_state.md R27). -/
  st : Word
  /-- The number of the next NaN draw (the model's own field, log 7). -/
  draw : Nat
  /-- The number of the reset whose draws are in force (the model's own field, log 5). -/
  epoch : Nat
  /-- What happens next (the model's own field, log 1). -/
  inbox : List Event
  /-- The response to the last transaction, as the host saw it (00_scope.md R12; the model's own field, log 13). -/
  resp : Option Response
deriving DecidableEq, Repr

/-- The machine right after reset (10_state.md R34, 70_reset_and_hazards.md R211 to R213), at the default parameter:
control state zero, nothing pending, memories and working registers at the draws of reset number 0. -/
def State.reset : State where
  cfg := Config.default12
  dmem := []
  twtF := []
  twtI := []
  tblValid := false
  tblSize := 0
  busy := false
  done := false
  err := 0
  cmd := 0
  pend := []
  wr := Config.resetWork 0 0
  wi := Config.resetWork 0 1
  ct := Config.resetWork 0 2
  st := Config.resetWork 0 3
  draw := 0
  epoch := 0
  inbox := []
  resp := none

end Sys2Proof.Machine
end

