-- ==== Sys2Proof/Machine/Flags.lean ====
section
/-! DEFINITION. The status flags and the words the control and status registers read as (10_state.md R24, R29, R31;
30_encoding.md R67). There are no arithmetic flags (40_numerics.md R89). -/

namespace Sys2Proof.Machine

/-- The code in `STATUS.ERR` (60_exceptions.md R190). -/
def ErrCode.bits : ErrCode → BitVec 4
  | .ok => 0
  | .invalidLength => 1
  | .uninitializedTable => 2
  | .illegalCommand => 3

/-- `STATUS`: 31:8 zero, 7:4 ERR, 3:2 zero, 1 DONE, 0 BUSY (30_encoding.md R67). -/
def State.statusWord (s : State) : Reg32 :=
  0#24 ++ s.err ++ 0#2 ++ BitVec.ofBool s.done ++ BitVec.ofBool s.busy

/-- `TWSIZE`: 31 TBL_VALID, 30:24 zero, 23:0 TBL_SIZE (30_encoding.md R67). -/
def State.twsizeWord (s : State) : Reg32 := BitVec.ofBool s.tblValid ++ 0#7 ++ s.tblSize

/-- `CAP`: 31:16 zero, 15:8 revision 1, 7:5 zero, 4:0 LOGN_MAX (30_encoding.md R67). -/
def State.capWord (s : State) : Reg32 := 0#16 ++ 1#8 ++ 0#3 ++ BitVec.ofNat 5 s.cfg.logn

/-- The flags at acceptance: `BUSY <- 1; DONE <- 0; ERR <- 0` (45_command_control.md R170). -/
def State.flagsAccept (s : State) : State := { s with busy := true, done := false, err := 0 }

/-- The flags at completion: `ERR <- code; DONE <- 1; BUSY <- 0` (45_command_control.md R175). -/
def State.flagsComplete (s : State) (code : ErrCode) : State :=
  { s with busy := false, done := true, err := code.bits }

end Sys2Proof.Machine
end

