-- ==== Sys2Proof/Machine/Operands.lean ====
section
/-! DEFINITION. The operand of a command and what is derived from it: the power-of-two test and logarithm
(40_numerics.md R91), the length and table checks (30_encoding.md R63, 42_twiddle.md R124), bit reversal of an index
(00_scope.md R14). -/

namespace Sys2Proof.Machine

/-- `pow2(v)`: `v != 0 and (v AND (v - 1)) = 0` (40_numerics.md R91). -/
def pow2 (v : Nat) : Bool := v != 0 && v &&& (v - 1) == 0

/-- `log2(v)`: the position of the one set bit of a power of two (40_numerics.md R91). -/
def log2 (v : Nat) : Nat := Nat.log2 v

/-- `lenok(len)` (45_command_control.md R171; 30_encoding.md R63): the admitted lengths of PERMUTE, XFORM and
RXFORM. -/
def lenOk (c : Config) (len : Nat) : Bool :=
  len % 2 == 0 && pow2 (len / 2) && decide (len ≤ c.dmemWords)

/-- The admitted sizes of INIT (42_twiddle.md R119). -/
def sizeOk (c : Config) (size : Nat) : Bool := pow2 size && decide (size ≤ 2 * c.nmax)

/-- The tag of the tables, `TBL_VALID` and `TBL_SIZE`, as the checks read it (10_state.md R23). -/
structure TableTag where
  valid : Bool
  size : Nat
deriving DecidableEq, Repr

/-- The tag a state holds. -/
def State.tag (s : State) : TableTag := ⟨s.tblValid, s.tblSize.toNat⟩

/-- The table check (42_twiddle.md R124): recurrence mode ignores the tag; table mode needs `TBL_VALID = 1` and
`TBL_SIZE` equal to the requested size. -/
def tableOk (tag : TableTag) (twm : TwMode) (nreq : Nat) : Bool :=
  match twm with
  | .recurrence => true
  | .table => tag.valid && tag.size == nreq

/-- `rev_n(i)`: the `n`-bit number `i` read backwards (00_scope.md R14). -/
def revBits : (n i : Nat) → Nat
  | 0, _ => 0
  | n + 1, i => (i % 2) * 2 ^ n + revBits n (i / 2)

/-- The index of stage `s`, offset `mi` in a table: `e = 2^s - 1 + mi` (42_twiddle.md R117). -/
def twIndex (s mi : Nat) : Nat := 2 ^ s - 1 + mi

end Sys2Proof.Machine
end

