-- ==== Sys2Proof/Machine/Ops.lean ====
section
/-! DEFINITION. The named operations over memory and registers, acceptance and completion of a command (the whole of
the block's exceptional entry, 60_exceptions.md R194), and reset. -/

namespace Sys2Proof.Machine

/-- The element written at `i`, if any was. -/
def Mem.find {α : Type} : Mem α → Nat → Option α
  | [], _ => none
  | (k, v) :: rest, i => if k = i then some v else Mem.find rest i

/-- Write element `i`, keeping the indices strictly rising. -/
def Mem.put {α : Type} : Mem α → Nat → α → Mem α
  | [], i, v => [(i, v)]
  | (k, u) :: rest, i, v =>
    if i < k then (i, v) :: (k, u) :: rest
    else if i = k then (i, v) :: rest
    else (k, u) :: Mem.put rest i v

/-- The canonical form: indices strictly rising from at least `lo`, and below `n`. -/
def Mem.wfFrom {α : Type} (n : Nat) : Nat → Mem α → Bool
  | _, [] => true
  | lo, (k, _) :: rest => decide (lo ≤ k) && decide (k < n) && Mem.wfFrom n (k + 1) rest

/-- The canonical form of a memory of `n` elements. -/
def Mem.wf {α : Type} (n : Nat) (m : Mem α) : Bool := Mem.wfFrom n 0 m

/-- `D[i]` (00_scope.md R15): the last word written, else the draw of the last reset (10_state.md R34). -/
def State.D (s : State) (i : Nat) : Word := (Mem.find s.dmem i).getD (Config.resetDmem s.epoch i)

/-- `D[i] <- v` (00_scope.md R15). -/
def State.setD (s : State) (i : Nat) (v : Word) : State := { s with dmem := Mem.put s.dmem i v }

/-- `TWT[d][e]`, a pair `(re, im)` (00_scope.md R15): the last pair stored, else the draw of the last reset. -/
def State.T (s : State) (d : Dir) (e : Nat) : Word × Word :=
  match d with
  | .forward => (Mem.find s.twtF e).getD (Config.resetTwt s.epoch .forward e)
  | .inverse => (Mem.find s.twtI e).getD (Config.resetTwt s.epoch .inverse e)

/-- `TWT[d][e] <- (re, im)` (00_scope.md R15). -/
def State.setT (s : State) (d : Dir) (e : Nat) (p : Word × Word) : State :=
  match d with
  | .forward => { s with twtF := Mem.put s.twtF e p }
  | .inverse => { s with twtI := Mem.put s.twtI e p }

/-- `WR <- re; WI <- im` (00_scope.md R15). -/
def State.setW (s : State) (re im : Word) : State := { s with wr := re, wi := im }

/-- `CT <- c; ST <- sn` (00_scope.md R15). -/
def State.setAngle (s : State) (c sn : Word) : State := { s with ct := c, st := sn }

/-- `TBL_SIZE <- size; TBL_VALID <- 1` (42_twiddle.md R120). -/
def State.setTag (s : State) (size : Nat) : State :=
  { s with tblValid := true, tblSize := BitVec.ofNat 24 size }

/-- `n` operations have used their NaN draws (40_numerics.md R85: fresh at every operation; log 7). -/
def State.useDraws (s : State) (n : Nat) : State := { s with draw := s.draw + n }

/-- The response the host sees (20_memory.md R42). -/
def State.respond (s : State) (r : Response) : State := { s with resp := some r }

/-- `PEND <- ops` (45_command_control.md R177). -/
def State.setPend (s : State) (ops : List MicroOp) : State := { s with pend := ops }

/-- What happens next (the model's own field, log 1). -/
def State.setInbox (s : State) (events : List Event) : State := { s with inbox := events }

/-- `accept(w)` (45_command_control.md R170): `CMD <- w; BUSY <- 1; DONE <- 0; ERR <- 0; PEND <- expand(w)`, and the
write's response is Ok. It also is what clears the report of the command before: the block has no other return from an
exceptional outcome (60_exceptions.md R194). -/
def State.accept (s : State) (w : Reg32) (ops : List MicroOp) : State :=
  { s.flagsAccept with cmd := w, pend := ops, resp := some .ok }

/-- Completion, with or without error (60_exceptions.md R194, 45_command_control.md R175): `ERR <- code; DONE <- 1;
BUSY <- 0`; no other state is written. This is the block's only exceptional entry. -/
def State.complete (s : State) (code : ErrCode) : State := s.flagsComplete code

/-- Reset (70_reset_and_hazards.md R211 to R214): control state zero, `PEND` empty, memories and working registers at
the draws of the next reset number, which stand for any mixture of old, intermediate and new contents (log 5, log 6).
`LOGN_MAX` and the seed ROM are constants. -/
def State.resetNow (s : State) : State :=
  { s with
    dmem := []
    twtF := []
    twtI := []
    tblValid := false
    tblSize := 0
    busy := false
    done := false
    err := 0
    cmd := 0
    pend := []
    wr := Config.resetWork (s.epoch + 1) 0
    wi := Config.resetWork (s.epoch + 1) 1
    ct := Config.resetWork (s.epoch + 1) 2
    st := Config.resetWork (s.epoch + 1) 3
    epoch := s.epoch + 1 }

end Sys2Proof.Machine
end

