-- ==== Sys2Proof/Machine/SeedRom.lean ====
section
/-! DEFINITION. The seed ROM (10_state.md R30): rows `(ROMC[s], ROMS[s])`, the binary64 values nearest to
`cos(π / 2^s)` and `sin(π / 2^s)`, as 42_twiddle.md R110 lists them. -/

namespace Sys2Proof.Machine

/-- Rows 0 to 11 (42_twiddle.md R110). -/
def seedRomLow : List (Word × Word) :=
  [(0xBFF0000000000000#64, 0x0000000000000000#64),
   (0x0000000000000000#64, 0x3FF0000000000000#64),
   (0x3FE6A09E667F3BCD#64, 0x3FE6A09E667F3BCD#64),
   (0x3FED906BCF328D46#64, 0x3FD87DE2A6AEA963#64),
   (0x3FEF6297CFF75CB0#64, 0x3FC8F8B83C69A60B#64),
   (0x3FEFD88DA3D12526#64, 0x3FB917A6BC29B42C#64),
   (0x3FEFF621E3796D7E#64, 0x3FA91F65F10DD814#64),
   (0x3FEFFD886084CD0D#64, 0x3F992155F7A3667E#64),
   (0x3FEFFF62169B92DB#64, 0x3F8921D1FCDEC784#64),
   (0x3FEFFFD8858E8A92#64, 0x3F7921F0FE670071#64),
   (0x3FEFFFF621621D02#64, 0x3F6921F8BECCA4BA#64),
   (0x3FEFFFFD88586EE6#64, 0x3F5921FAAEE6472E#64)]

/-- Rows 12 to 22 (42_twiddle.md R110); rows above `LOGN_MAX` are not part of a block. -/
def seedRomHigh : List (Word × Word) :=
  [(0x3FEFFFFF62161A34#64, 0x3F4921FB2AECB360#64),
   (0x3FEFFFFFD8858675#64, 0x3F3921FB49EE4EA6#64),
   (0x3FEFFFFFF621619C#64, 0x3F2921FB51AEB57C#64),
   (0x3FEFFFFFFD885867#64, 0x3F1921FB539ECF31#64),
   (0x3FEFFFFFFF62161A#64, 0x3F0921FB541AD59E#64),
   (0x3FEFFFFFFFD88586#64, 0x3EF921FB5439D73A#64),
   (0x3FEFFFFFFFF62162#64, 0x3EE921FB544197A1#64),
   (0x3FEFFFFFFFFD8858#64, 0x3ED921FB544387BA#64),
   (0x3FEFFFFFFFFF6216#64, 0x3EC921FB544403C1#64),
   (0x3FEFFFFFFFFFD886#64, 0x3EB921FB544422C2#64),
   (0x3FEFFFFFFFFFF621#64, 0x3EA921FB54442A83#64)]

/-- Row `s` of the ROM. No micro-operation that is performed reads past row `LOGN_MAX <= 22` (log 9). -/
def seedRom (s : Nat) : Word × Word := (seedRomLow ++ seedRomHigh).getD s (0, 0)

/-- `ROMC[s]`, the cosine word (00_scope.md R15). -/
def romC (s : Nat) : Word := (seedRom s).1

/-- `ROMS[s]`, the sine word (00_scope.md R15). -/
def romS (s : Nat) : Word := (seedRom s).2

/-- The sine word with the sign of the direction: `(d == 0) ? ROMS[s] : fneg(ROMS[s])` (42_twiddle.md R112). -/
def romSin (s : Nat) (d : Dir) : Word :=
  match d with
  | .forward => romS s
  | .inverse => fneg (romS s)

end Sys2Proof.Machine
end

