-- ==== Sys2Proof/Machine/MicroOps.lean ====
section
/-! DEFINITION. The ten micro-operations and the marker FINISH (30_encoding.md R68): what each does to the state, which
indices it needs, and how SEQ performs them. Each reads all its sources first and then writes (20_memory.md R54).
Operation number `n` of a micro-operation takes NaN draw `s.draw + n` (log 7). -/

namespace Sys2Proof.Machine

/-- `SWAPC a b` (41_bitrev.md R100). -/
def swapc (a b : Nat) (s : State) : State :=
  let t0 := s.D (2 * a)
  let t1 := s.D (2 * a + 1)
  let u0 := s.D (2 * b)
  let u1 := s.D (2 * b + 1)
  (((s.setD (2 * a) u0).setD (2 * a + 1) u1).setD (2 * b) t0).setD (2 * b + 1) t1

/-- `TWSEED s d` (42_twiddle.md R112). -/
def twseed (row : Nat) (d : Dir) (s : State) : State :=
  (s.setAngle (romC row) (romSin row d)).setW one64 zero64

/-- `TWSTEP` (42_twiddle.md R113): both new values from the old `WR`, `WI`. -/
def twstep (s : State) : State :=
  let q := s.draw
  let nwr := fsub (q + 2) (fmul q s.wr s.ct) (fmul (q + 1) s.wi s.st)
  let nwi := fadd (q + 5) (fmul (q + 3) s.wi s.ct) (fmul (q + 4) s.wr s.st)
  (s.setW nwr nwi).useDraws 6

/-- `TWLOAD d e` (42_twiddle.md R115). -/
def twload (d : Dir) (e : Nat) (s : State) : State := s.setW (s.T d e).1 (s.T d e).2

/-- `TWSTORE d e` (42_twiddle.md R116). -/
def twstore (d : Dir) (e : Nat) (s : State) : State := s.setT d e (s.wr, s.wi)

/-- `TSET size` (42_twiddle.md R120). -/
def tset (size : Nat) (s : State) : State := s.setTag size

/-- `BFLY k j` (43_butterfly.md R130). -/
def bfly (k j : Nat) (s : State) : State :=
  let q := s.draw
  let kr := s.D k
  let ki := s.D (k + 1)
  let jr := s.D j
  let ji := s.D (j + 1)
  let tr := fsub (q + 2) (fmul q s.wr jr) (fmul (q + 1) s.wi ji)
  let ti := fadd (q + 5) (fmul (q + 3) s.wi jr) (fmul (q + 4) s.wr ji)
  ((((s.setD j (fsub (q + 6) kr tr)).setD (j + 1) (fsub (q + 7) ki ti)).setD k (fadd (q + 8) kr tr)).setD (k + 1)
    (fadd (q + 9) ki ti)).useDraws 10

/-- `SCALE i r` (43_butterfly.md R134). -/
def scale (i r : Nat) (s : State) : State := (s.setD i (fmul s.draw (s.D i) (pow2Neg r))).useDraws 1

/-- `RPAIR j d` for real length `n` (44_realfft.md R150, R151). -/
def rpair (j : Nat) (d : Dir) (n : Nat) (s : State) : State :=
  let q := s.draw
  let i1 := 2 * j
  let i2 := 2 * j + 1
  let i3 := n - 2 * j
  let i4 := n - 2 * j + 1
  let a := s.D i1
  let b := s.D i2
  let c := s.D i3
  let e := s.D i4
  let h1r := fmul (q + 1) half64 (fadd q a c)
  let h1i := fmul (q + 3) half64 (fsub (q + 2) b e)
  let h2r := fmul (q + 5) (match d with | .forward => half64 | .inverse => negHalf64) (fadd (q + 4) b e)
  let h2i := fmul (q + 7) (match d with | .forward => negHalf64 | .inverse => half64) (fsub (q + 6) a c)
  let tr := fsub (q + 10) (fmul (q + 8) s.wr h2r) (fmul (q + 9) s.wi h2i)
  let ti := fadd (q + 13) (fmul (q + 11) s.wi h2r) (fmul (q + 12) s.wr h2i)
  ((((s.setD i1 (fadd (q + 14) h1r tr)).setD i2 (fadd (q + 15) h1i ti)).setD i3 (fsub (q + 16) h1r tr)).setD i4
    (fsub (q + 17) ti h1i)).useDraws 18

/-- `RDC 0` (44_realfft.md R152) and `RDC 1` (R153). -/
def rdc (d : Dir) (s : State) : State :=
  let q := s.draw
  let a := s.D 0
  let b := s.D 1
  match d with
  | .forward => ((s.setD 0 (fadd q a b)).setD 1 (fsub (q + 1) a b)).useDraws 2
  | .inverse =>
    ((s.setD 0 (fmul (q + 1) half64 (fadd q a b))).setD 1 (fmul (q + 3) half64 (fsub (q + 2) a b))).useDraws 4

/-- What a micro-operation does (each by its own rule; `FINISH` is completion, 45_command_control.md R175). -/
def applyOp : MicroOp → State → State
  | .swapc a b, s => swapc a b s
  | .twseed row d, s => twseed row d s
  | .twstep, s => twstep s
  | .twload d e, s => twload d e s
  | .twstore d e, s => twstore d e s
  | .tset size, s => tset size s
  | .bfly k j, s => bfly k j s
  | .scale i r, s => scale i r s
  | .rpair j d n, s => rpair j d n s
  | .rdc d, s => rdc d s
  | .finish code, s => s.complete code

/-- Every element index of a micro-operation exists (20_memory.md R47; operand ranges of the micro-operations' own
rules). -/
def MicroOp.inRange (c : Config) : MicroOp → Bool
  | .swapc a b => decide (2 * a + 1 < c.dmemWords) && decide (2 * b + 1 < c.dmemWords)
  | .twseed row _ => decide (row ≤ c.logn)
  | .twstep => true
  | .twload _ e => decide (e < c.twtEntries)
  | .twstore _ e => decide (e < c.twtEntries)
  | .tset _ => true
  | .bfly k j => decide (k + 1 < c.dmemWords) && decide (j + 1 < c.dmemWords)
  | .scale i _ => decide (i < c.dmemWords)
  | .rpair j _ n => decide (2 * j + 1 < c.dmemWords) && decide (n - 2 * j + 1 < c.dmemWords)
  | .rdc _ => decide (1 < c.dmemWords)
  | .finish _ => true

/-- Perform one micro-operation (45_command_control.md R177); an index that does not exist is a fault (log 9). -/
def perform (op : MicroOp) (s : State) : Except Fault State :=
  if op.inRange s.cfg then .ok (applyOp op s) else .error .microOpIndex

/-- The state after a list of micro-operations, one after the other in the listed order (20_memory.md R50). -/
def effects (ops : List MicroOp) (s : State) : State := ops.foldl (fun t op => applyOp op t) s

/-- Perform a whole list. No micro-operation writes `cfg`, and a fault leaves no state, so the ranges can be looked at
first (45_command_control.md R179: control depends on no data). -/
def performAll (ops : List MicroOp) (s : State) : Except Fault State :=
  if ops.all (fun op => op.inRange s.cfg) then .ok (effects ops s) else .error .microOpIndex

/-- The sequencer step (45_command_control.md R177): while `BUSY = 1`, take the head of `PEND` and perform it. While
`BUSY = 0` SEQ does nothing (20_memory.md R51). -/
def seqStep (s : State) : Except Fault State :=
  if s.busy then
    match s.pend with
    | [] => .error .pendEmptyWhileBusy
    | op :: rest => perform op (s.setPend rest)
  else .ok s

/-- What a command does: its micro-operations and the code of its `FINISH` (45_command_control.md R171). -/
structure Plan where
  ops : List MicroOp
  code : ErrCode
deriving DecidableEq, Repr

/-- A failing command performs no micro-operation (45_command_control.md R171). -/
def Plan.fail (code : ErrCode) : Plan := ⟨[], code⟩

/-- `expand`: the micro-operations and exactly one `FINISH` at the end (45_command_control.md R171). -/
def Plan.expand (p : Plan) : List MicroOp := p.ops ++ [.finish p.code]

/-- An outcome of the host's type from a performed list. -/
def toOutcome : Except Fault State → Host.Outcome State Fault Refusal
  | .ok s => .next s
  | .error f => .fault f

/-- `run(w)`, the big step of a command (45_command_control.md R176): while `BUSY = 1` the write of CMD is refused with
Err and changes nothing (R180); else the word is accepted and all of `expand(w)` is performed, after which `PEND` is
empty. -/
def command (w : Reg32) (p : Plan) (s : State) : Host.Outcome State Fault Refusal :=
  if s.busy then .next (s.respond .err)
  else toOutcome ((performAll p.expand (s.accept w p.expand)).map fun t => t.setPend [])

end Sys2Proof.Machine
end

