-- ==== Sys2Proof/Machine/BitRev.lean ====
section
/-! DEFINITION. The bit-reversal permutation (41_bitrev.md): `seq_permute` and PERMUTE. -/

namespace Sys2Proof.Machine

/-- The inner loop of `seq_permute`: `while top >= 1 and j >= top: j -= top; top >>= 1`, then `j += top`
(41_bitrev.md R102). `fuel` bounds the halvings (log 20). -/
def revAdvance : (fuel top j : Nat) → Nat
  | 0, top, j => j + top
  | fuel + 1, top, j => if 1 ≤ top ∧ top ≤ j then revAdvance fuel (top / 2) (j - top) else j + top

/-- The outer loop of `seq_permute(n)` from counter `k` for `count` more iterations (41_bitrev.md R102). -/
def seqPermuteFrom (n : Nat) : (count k j : Nat) → List MicroOp
  | 0, _, _ => []
  | count + 1, k, j =>
    (if j > k then [.swapc k j] else []) ++ seqPermuteFrom n count (k + 1) (revAdvance (log2 n + 1) (n / 2) j)

/-- `seq_permute(N)` (41_bitrev.md R102). -/
def seqPermute (n : Nat) : List MicroOp := seqPermuteFrom n n 0 0

/-- PERMUTE's checks and micro-operations (41_bitrev.md R105, 45_command_control.md R171). -/
def planPermute (c : Config) (len : Nat) : Plan :=
  if lenOk c len then ⟨seqPermute (len / 2), .ok⟩ else Plan.fail .invalidLength

/-- `PERMUTE len` (41_bitrev.md R105). -/
def execPermute (len : Nat) (s : State) : Host.Outcome State Fault Refusal :=
  command (encode (.permute len)) (planPermute s.cfg len) s

end Sys2Proof.Machine
end

