-- ==== Sys2Proof/Machine/Twiddle.lean ====
section
/-! DEFINITION. The twiddle-factor provider (42_twiddle.md): `seq_twiddle` and INIT. -/

namespace Sys2Proof.Machine

/-- `seq_twiddle(s, mi, d, twm)` (42_twiddle.md R118). -/
def seqTwiddle (s mi : Nat) (d : Dir) (twm : TwMode) : List MicroOp :=
  match twm with
  | .recurrence => if mi = 0 then [.twseed s d] else [.twstep]
  | .table => [.twload d (twIndex s mi)]

/-- One row of one direction of INIT's loops: `for mi = 0 .. 2^s - 1` (42_twiddle.md R119). -/
def initRow (s : Nat) (d : Dir) : List MicroOp :=
  (List.range (2 ^ s)).flatMap fun mi => seqTwiddle s mi d .recurrence ++ [.twstore d (twIndex s mi)]

/-- INIT's micro-operations: rows ascending, within a row forward then inverse, then `TSET` (42_twiddle.md R119). -/
def seqInit (size : Nat) : List MicroOp :=
  ((List.range (log2 size)).flatMap fun s => initRow s .forward ++ initRow s .inverse) ++ [.tset size]

/-- INIT's check and micro-operations (42_twiddle.md R119, 45_command_control.md R171). -/
def planInit (c : Config) (size : Nat) : Plan :=
  if sizeOk c size then ⟨seqInit size, .ok⟩ else Plan.fail .invalidLength

/-- `INIT size` (42_twiddle.md R119). -/
def execInit (size : Nat) (s : State) : Host.Outcome State Fault Refusal :=
  command (encode (.init size)) (planInit s.cfg size) s

end Sys2Proof.Machine
end

