-- ==== Sys2Proof/Machine/Butterfly.lean ====
section
/-! DEFINITION. The complex FFT core (43_butterfly.md): `seq_stages`, `seq_core` and XFORM. -/

namespace Sys2Proof.Machine

/-- The butterflies of stage `s`, offset `mi`: `k = 2*mi`, then every `2*step` words while `k < 2N`, which are
`N / (2*mmax)` of them; `j = k + step`, `step = 2*mmax`, `mmax = 2^s` (43_butterfly.md R131, R132). -/
def seqOffset (n s mi : Nat) : List MicroOp :=
  (List.range (n / (2 * 2 ^ s))).map fun g =>
    .bfly (2 * mi + g * (2 * (2 * 2 ^ s))) (2 * mi + g * (2 * (2 * 2 ^ s)) + 2 * 2 ^ s)

/-- Stage `s` of `seq_stages(N, d, twm)` (43_butterfly.md R132). -/
def seqStage (n s : Nat) (d : Dir) (twm : TwMode) : List MicroOp :=
  (List.range (2 ^ s)).flatMap fun mi => seqTwiddle s mi d twm ++ seqOffset n s mi

/-- `seq_stages(N, d, twm)` (43_butterfly.md R132). -/
def seqStages (n : Nat) (d : Dir) (twm : TwMode) : List MicroOp :=
  (List.range (log2 n)).flatMap fun s => seqStage n s d twm

/-- The scaling pass: on inverse, `for i = 0 .. 2N - 1: SCALE i n`; on forward nothing (43_butterfly.md R135, R136). -/
def seqScale (n : Nat) (d : Dir) : List MicroOp :=
  match d with
  | .forward => []
  | .inverse => (List.range (2 * n)).map fun i => .scale i (log2 n)

/-- `seq_core(N, d, twm)` (43_butterfly.md R136). -/
def seqCore (n : Nat) (d : Dir) (twm : TwMode) : List MicroOp :=
  seqPermute n ++ seqStages n d twm ++ seqScale n d

/-- XFORM's checks and micro-operations (43_butterfly.md R137, 45_command_control.md R171): length, then table. -/
def planXform (c : Config) (tag : TableTag) (len : Nat) (d : Dir) (twm : TwMode) : Plan :=
  if lenOk c len then
    if tableOk tag twm (len / 2) then ⟨seqCore (len / 2) d twm, .ok⟩ else Plan.fail .uninitializedTable
  else Plan.fail .invalidLength

/-- `XFORM.F.R len` (43_butterfly.md R137). -/
def execXformFR (len : Nat) (s : State) : Host.Outcome State Fault Refusal :=
  command (encode (.xformFR len)) (planXform s.cfg s.tag len .forward .recurrence) s

/-- `XFORM.I.R len` (43_butterfly.md R137). -/
def execXformIR (len : Nat) (s : State) : Host.Outcome State Fault Refusal :=
  command (encode (.xformIR len)) (planXform s.cfg s.tag len .inverse .recurrence) s

/-- `XFORM.F.T len` (43_butterfly.md R137). -/
def execXformFT (len : Nat) (s : State) : Host.Outcome State Fault Refusal :=
  command (encode (.xformFT len)) (planXform s.cfg s.tag len .forward .table) s

/-- `XFORM.I.T len` (43_butterfly.md R137). -/
def execXformIT (len : Nat) (s : State) : Host.Outcome State Fault Refusal :=
  command (encode (.xformIT len)) (planXform s.cfg s.tag len .inverse .table) s

end Sys2Proof.Machine
end

