-- ==== Sys2Proof/Machine/RealFft.lean ====
section
/-! DEFINITION. The real-FFT pre/post-processor (44_realfft.md): `seq_rpost` and RXFORM. -/

namespace Sys2Proof.Machine

/-- The twiddle of pair `j` in `seq_rpost(N, d, twm)`: one `TWSTEP`, or `TWLOAD d (M - 1 + j)` (44_realfft.md R154). -/
def seqPairTwiddle (n j : Nat) (d : Dir) (twm : TwMode) : MicroOp :=
  match twm with
  | .recurrence => .twstep
  | .table => .twload d (n / 2 - 1 + j)

/-- The seed of `seq_rpost`: `TWSEED sr d` in recurrence mode, also when the loop is empty (44_realfft.md R154). -/
def seqRpostSeed (n : Nat) (d : Dir) (twm : TwMode) : List MicroOp :=
  match twm with
  | .recurrence => [.twseed (log2 (n / 2)) d]
  | .table => []

/-- `seq_rpost(N, d, twm)`: `j = 1 .. N/4 - 1`, then `RDC d` (44_realfft.md R154). -/
def seqRpost (n : Nat) (d : Dir) (twm : TwMode) : List MicroOp :=
  seqRpostSeed n d twm
    ++ ((List.range (n / 4 - 1)).flatMap fun g => [seqPairTwiddle n (g + 1) d twm, .rpair (g + 1) d n])
    ++ [.rdc d]

/-- The phases of RXFORM: core then post-processor when forward (44_realfft.md R157), pre-processor then core when
inverse (R158). -/
def seqReal (n : Nat) (d : Dir) (twm : TwMode) : List MicroOp :=
  match d with
  | .forward => seqCore (n / 2) .forward twm ++ seqRpost n .forward twm
  | .inverse => seqRpost n .inverse twm ++ seqCore (n / 2) .inverse twm

/-- RXFORM's checks and micro-operations (44_realfft.md R157 to R159): the table must be of size `N = LEN`. -/
def planRxform (c : Config) (tag : TableTag) (len : Nat) (d : Dir) (twm : TwMode) : Plan :=
  if lenOk c len then
    if tableOk tag twm len then ⟨seqReal len d twm, .ok⟩ else Plan.fail .uninitializedTable
  else Plan.fail .invalidLength

/-- `RXFORM.F.R len` (44_realfft.md R157). -/
def execRxformFR (len : Nat) (s : State) : Host.Outcome State Fault Refusal :=
  command (encode (.rxformFR len)) (planRxform s.cfg s.tag len .forward .recurrence) s

/-- `RXFORM.I.R len` (44_realfft.md R158). -/
def execRxformIR (len : Nat) (s : State) : Host.Outcome State Fault Refusal :=
  command (encode (.rxformIR len)) (planRxform s.cfg s.tag len .inverse .recurrence) s

/-- `RXFORM.F.T len` (44_realfft.md R157). -/
def execRxformFT (len : Nat) (s : State) : Host.Outcome State Fault Refusal :=
  command (encode (.rxformFT len)) (planRxform s.cfg s.tag len .forward .table) s

/-- `RXFORM.I.T len` (44_realfft.md R158). -/
def execRxformIT (len : Nat) (s : State) : Host.Outcome State Fault Refusal :=
  command (encode (.rxformIT len)) (planRxform s.cfg s.tag len .inverse .table) s

end Sys2Proof.Machine
end

