-- ==== Sys2Proof/Machine/System.lean ====
section
/-! DEFINITION. NOP and illegal words (45_command_control.md R173, R174). -/

namespace Sys2Proof.Machine

/-- NOP has no check and no micro-operation (45_command_control.md R173). -/
def planNop : Plan := ⟨[], .ok⟩

/-- `NOP` (45_command_control.md R173). -/
def execNop (s : State) : Host.Outcome State Fault Refusal := command (encode .nop) planNop s

/-- An illegal word performs nothing and completes with IllegalCommand (45_command_control.md R174). -/
def planIllegal : Plan := Plan.fail .illegalCommand

/-- A word that decodes to `Illegal`: accepted, nothing done, `ERR = 3` (45_command_control.md R174). -/
def execIllegal (w : Reg32) (s : State) : Host.Outcome State Fault Refusal := command w planIllegal s

end Sys2Proof.Machine
end

