-- ==== Sys2Proof/Machine/Expand.lean ====
section
/-! DEFINITION. `expand(w)` (45_command_control.md R171): from the word, the parameter and the tag alone. -/

namespace Sys2Proof.Machine

/-- The checks and micro-operations of a command (45_command_control.md R171). -/
def planOf (c : Config) (tag : TableTag) : Instr → Plan
  | .nop => planNop
  | .init size => planInit c size
  | .permute len => planPermute c len
  | .xformFR len => planXform c tag len .forward .recurrence
  | .xformIR len => planXform c tag len .inverse .recurrence
  | .xformFT len => planXform c tag len .forward .table
  | .xformIT len => planXform c tag len .inverse .table
  | .rxformFR len => planRxform c tag len .forward .recurrence
  | .rxformIR len => planRxform c tag len .inverse .recurrence
  | .rxformFT len => planRxform c tag len .forward .table
  | .rxformIT len => planRxform c tag len .inverse .table

/-- The plan of any word: an illegal one fails with IllegalCommand (45_command_control.md R171, R174). -/
def planWord (c : Config) (tag : TableTag) (w : Reg32) : Plan :=
  match decode w with
  | .ok i => planOf c tag i
  | .error _ => planIllegal

/-- `expand(w)` (45_command_control.md R171). -/
def expand (c : Config) (tag : TableTag) (w : Reg32) : List MicroOp := (planWord c tag w).expand

end Sys2Proof.Machine
end

