-- ==== Sys2Proof/Machine/Dispatch.lean ====
section
/-! DEFINITION. The meaning of every command, one arm per constructor. -/

namespace Sys2Proof.Machine

/-- The meaning of a command: its big step (45_command_control.md R176). -/
def exec (i : Instr) (s : State) : Host.Outcome State Fault Refusal :=
  match i with
  | .nop => Sys2Proof.Machine.execNop s
  | .init size => Sys2Proof.Machine.execInit size s
  | .permute len => Sys2Proof.Machine.execPermute len s
  | .xformFR len => Sys2Proof.Machine.execXformFR len s
  | .xformIR len => Sys2Proof.Machine.execXformIR len s
  | .xformFT len => Sys2Proof.Machine.execXformFT len s
  | .xformIT len => Sys2Proof.Machine.execXformIT len s
  | .rxformFR len => Sys2Proof.Machine.execRxformFR len s
  | .rxformIR len => Sys2Proof.Machine.execRxformIR len s
  | .rxformFT len => Sys2Proof.Machine.execRxformFT len s
  | .rxformIT len => Sys2Proof.Machine.execRxformIT len s

end Sys2Proof.Machine
end

