-- ==== Sys2Proof/Machine/Port.lean ====
section
/-! DEFINITION. The host port (20_memory.md R42 to R48): when a transaction is refused, and what it does else. -/

namespace Sys2Proof.Machine

/-- The number of elements of a host-visible space (20_memory.md R40, R47). -/
def spaceSize (c : Config) : Space → Nat
  | .csr => 4
  | .dmem => c.dmemWords
  | .twt => 4 * c.twtEntries

/-- The space and index a transaction names. -/
def Txn.target : Txn → Space × Nat
  | .read sp i => (sp, i)
  | .writeCsr i _ => (.csr, i)
  | .writeDmem i _ => (.dmem, i)
  | .writeTwt i _ => (.twt, i)

/-- Why a transaction is refused, in the order of the tests (20_memory.md R42). The host sees Err alone. -/
inductive PortErr where
  /-- (a) the index is outside the space's range (20_memory.md R47). -/
  | range
  /-- (b) `BUSY = 1` and it is no read of STATUS or CAP (20_memory.md R44). -/
  | busy
  /-- (c) a write to CSR 1, 2, 3 or to TWT space (20_memory.md R43, R44). -/
  | readOnly
deriving DecidableEq, Repr

/-- A read of STATUS or CAP, allowed while busy (70_reset_and_hazards.md R216). -/
def Txn.allowedBusy : Txn → Bool
  | .read .csr 1 => true
  | .read .csr 3 => true
  | _ => false

/-- A write to a read-only target (20_memory.md R42 (c)). -/
def Txn.writesReadOnly : Txn → Bool
  | .writeCsr i _ => i != 0
  | .writeTwt _ _ => true
  | _ => false

/-- The refusal of a transaction, if it is refused, tested in the rule's order (20_memory.md R42). -/
def portErr (t : Txn) (s : State) : Option PortErr :=
  if spaceSize s.cfg t.target.1 ≤ t.target.2 then some .range
  else if s.busy && !t.allowedBusy then some .busy
  else if t.writesReadOnly then some .readOnly
  else none

/-- The value of a control and status register (20_memory.md R44, 30_encoding.md R67). -/
def csrRead (s : State) (i : Nat) : Reg32 :=
  match i with
  | 0 => s.cmd
  | 1 => s.statusWord
  | 2 => s.twsizeWord
  | _ => s.capWord

/-- The word at TWT-space index `t`: `d = t // (2E)`, `e = (t mod 2E) // 2`, `c = t mod 2`, `E = TWT_ENTRIES`
(20_memory.md R43). -/
def twtRead (s : State) (t : Nat) : Word :=
  let span := 2 * s.cfg.twtEntries
  let d : Dir := if t / span = 0 then .forward else .inverse
  let p := s.T d (t % span / 2)
  if t % 2 = 0 then p.1 else p.2

/-- The data of a read that is not refused (20_memory.md R48). -/
def portRead (s : State) (sp : Space) (i : Nat) : Response :=
  match sp with
  | .csr => .reg (csrRead s i)
  | .dmem => .word (s.D i)
  | .twt => .word (twtRead s i)

/-- The effect of a transaction (20_memory.md R42, R48): refused, it changes nothing and returns Err; a CMD write is
acceptance (45_command_control.md R170). -/
def hostTurn (t : Txn) (s : State) : State :=
  match portErr t s with
  | some _ => s.respond .err
  | none =>
    match t with
    | .read sp i => s.respond (portRead s sp i)
    | .writeCsr _ w => s.accept w (expand s.cfg s.tag w)
    | .writeDmem i v => (s.setD i v).respond .ok
    | .writeTwt _ _ => s.respond .err

end Sys2Proof.Machine
end

