-- ==== Sys2Proof/Machine/Fetch.lean ====
section
/-! DEFINITION. What the next step does: the head of the inbox, a called word decoded; with the inbox empty, SEQ's turn
while a command runs, else nothing (log 1, log 2, log 11). -/

namespace Sys2Proof.Machine

/-- What a step does. -/
inductive Turn where
  /-- The command of a called word, as one big step (45_command_control.md R176). -/
  | command (i : Instr)
  /-- A called word that decodes to `Illegal` (45_command_control.md R174). -/
  | illegal (w : Reg32)
  /-- A transaction of the host port (20_memory.md R42). -/
  | port (t : Txn)
  /-- A turn of SEQ (45_command_control.md R177). -/
  | seq
  /-- Reset (70_reset_and_hazards.md R210). -/
  | reset
  /-- Nothing happens: no event, no command running (70_reset_and_hazards.md R215). -/
  | idle
deriving DecidableEq, Repr

/-- The turn of a called word. -/
def callTurn (w : Reg32) : Turn :=
  match decode w with
  | .ok i => .command i
  | .error _ => .illegal w

/-- The turn of an event. -/
def Event.turn : Event → Turn
  | .host t => .port t
  | .call w => callTurn w
  | .seq => .seq
  | .reset => .reset

/-- The next turn, and the state with its event taken from the inbox. -/
def fetch (s : State) : Turn × State :=
  match s.inbox with
  | [] => (if s.busy then .seq else .idle, s)
  | e :: rest => (e.turn, s.setInbox rest)

end Sys2Proof.Machine
end

