-- ==== Sys2Proof/Machine/Step.lean ====
section
/-! DEFINITION. One step of the block and its surroundings: take the next turn and do it. -/

namespace Sys2Proof.Machine

/-- One step. -/
def step (s : State) : Host.Outcome State Fault Refusal :=
  match fetch s with
  | (.command i, t) => exec i t
  | (.illegal w, t) => execIllegal w t
  | (.port x, t) => .next (hostTurn x t)
  | (.seq, t) => toOutcome (seqStep t)
  | (.reset, t) => .next t.resetNow
  | (.idle, t) => .next t

/-- `s` with the command word `w` as what the host calls next, the block ready for it (`BUSY = 0`, nothing pending), so
that the very next step runs exactly that command (log 24). -/
def State.withFetchWord (s : State) (nbits w : Nat) : State :=
  { s with
    busy := false
    pend := []
    inbox := .call (BitVec.ofNat 32 (w % 2 ^ nbits)) :: s.inbox }

end Sys2Proof.Machine
end

