-- ==== Sys2Proof/Safety/Reference.lean ====
section
/-! DEFINITION. What the commands compute, said index by index over whole signals, with no loop, no order of writes and
no sequencer: the terms in which claims about PERMUTE, INIT, XFORM and RXFORM are made. A value is a binary64 number or
"a NaN", whose bits 40_numerics.md R85 leaves free. -/

namespace Sys2Proof.Machine

/-- A binary64 value up to the bits of a NaN: `none` is a NaN (40_numerics.md R85: "whether each output word is a NaN"
is determined, its bits are not). -/
abbrev FpVal := Option Word

/-- The value of a word. -/
def fpVal (w : Word) : FpVal := if isNaN w then none else some w

/-- `fneg` on values (40_numerics.md R82). -/
def FpVal.neg (x : FpVal) : FpVal := x.map fneg

/-- `fadd` on values: a NaN operand gives a NaN (40_numerics.md R81, R85). -/
def FpVal.add (x y : FpVal) : FpVal := x.bind fun a => y.bind fun b => addNum a b

/-- `fsub` on values (40_numerics.md R82). -/
def FpVal.sub (x y : FpVal) : FpVal := FpVal.add x (FpVal.neg y)

/-- `fmul` on values (40_numerics.md R83, R85). -/
def FpVal.mul (x y : FpVal) : FpVal := x.bind fun a => y.bind fun b => mulNum a b

/-- A number that is a zero of either sign. -/
def FpVal.isZero (x : FpVal) : Bool := x.elim false Machine.isZero

/-- The twiddle generators of a forward and an inverse state are conjugate (42_twiddle.md R122): `WR` the same value, `CT`
the same word, `ST` negated, `WI` negated or a zero in both. -/
structure Conjugate (s s' : State) : Prop where
  wr : fpVal s'.wr = fpVal s.wr
  ct : s'.ct = s.ct
  st : s'.st = fneg s.st
  wi : fpVal s'.wi = FpVal.neg (fpVal s.wi) ∨ (isZero s'.wi = true ∧ isZero s.wi = true)

/-- A complex value: real and imaginary part. -/
abbrev Cplx := FpVal × FpVal

/-- A signal as values: word index to value (10_state.md R21). -/
abbrev Signal := Nat → FpVal

/-- The signal a state holds in DMEM. -/
def State.signal (s : State) : Signal := fun i => fpVal (s.D i)

/-- The value of a table entry or of a pair of words. -/
def fpPair (p : Word × Word) : Cplx := (fpVal p.1, fpVal p.2)

/-- `(wr, wi) * (xr, xi)` as BFLY, TWSTEP and RPAIR form it: `wr*xr - wi*xi`, `wi*xr + wr*xi` (43_butterfly.md
R130). -/
def Cplx.rotate (w x : Cplx) : Cplx :=
  (FpVal.sub (FpVal.mul w.1 x.1) (FpVal.mul w.2 x.2), FpVal.add (FpVal.mul w.2 x.1) (FpVal.mul w.1 x.2))

/-- The twiddle value `W(s, d, mi)` (42_twiddle.md R114). -/
def twiddleW (s : Nat) (d : Dir) : Nat → Cplx
  | 0 => (some one64, some zero64)
  | mi + 1 =>
    let w := twiddleW s d mi
    let c := fpVal (romC s)
    let sn := fpVal (romSin s d)
    (FpVal.sub (FpVal.mul w.1 c) (FpVal.mul w.2 sn), FpVal.add (FpVal.mul w.2 c) (FpVal.mul w.1 sn))

/-- The twiddle factor a command of mode `twm` uses at row `s`, offset `mi`: `W(s, d, mi)` in recurrence mode, the table
entry `2^s - 1 + mi` as the state holds it in table mode (42_twiddle.md R118). -/
def twiddleOf (st : State) (d : Dir) (twm : TwMode) (s mi : Nat) : Cplx :=
  match twm with
  | .recurrence => twiddleW s d mi
  | .table => fpPair (st.T d (twIndex s mi))

/-- The bit-reversed signal of `2^n` complex samples: sample `c` is the old sample `rev_n(c)` (41_bitrev.md R101). -/
def permuted (n : Nat) (x : Signal) : Signal := fun i => x (2 * revBits n (i / 2) + i % 2)

/-- Stage `s` of the butterfly network (43_butterfly.md R130, R131), as an equation for every word: sample `c` with bit
`s` clear becomes `x[c] + w * x[c + 2^s]`; sample `c` with bit `s` set becomes `x[c - 2^s] - w * x[c]`; `w` is the
twiddle of offset `c mod 2^s`. -/
def stage (tw : Nat → Cplx) (s : Nat) (x : Signal) : Signal := fun i =>
  let c := i / 2
  let upper := c / 2 ^ s % 2 == 0
  let lo := if upper then c else c - 2 ^ s
  let hi := lo + 2 ^ s
  let t := Cplx.rotate (tw (c % 2 ^ s)) (x (2 * hi), x (2 * hi + 1))
  let tPart := if i % 2 = 0 then t.1 else t.2
  let k := x (2 * lo + i % 2)
  if upper then FpVal.add k tPart else FpVal.sub k tPart

/-- Stages `0 .. n-1` one after the other (43_butterfly.md R131). -/
def stages (tw : Nat → Nat → Cplx) : Nat → Signal → Signal
  | 0, x => x
  | n + 1, x => stage (tw n) n (stages tw n x)

/-- The scaling rule (43_butterfly.md R135): on inverse every word is multiplied once by `2^-n`. -/
def scaled (n : Nat) (d : Dir) (x : Signal) : Signal := fun i =>
  match d with
  | .forward => x i
  | .inverse => FpVal.mul (x i) (some (pow2Neg n))

/-- The complex core on `2^n` samples (43_butterfly.md R136). -/
def coreSignal (tw : Nat → Nat → Cplx) (n : Nat) (d : Dir) (x : Signal) : Signal :=
  scaled n d (stages tw n (permuted n x))

/-- The four results of a pair `j` of the real post-processor for real length `n` (44_realfft.md R150, R151): words
`2j`, `2j+1`, `n-2j`, `n-2j+1`. -/
def pairResults (w : Cplx) (d : Dir) (n j : Nat) (x : Signal) : Cplx × Cplx :=
  let a := x (2 * j)
  let b := x (2 * j + 1)
  let c := x (n - 2 * j)
  let e := x (n - 2 * j + 1)
  let half : FpVal := some half64
  let negHalf : FpVal := some negHalf64
  let h1r := FpVal.mul half (FpVal.add a c)
  let h1i := FpVal.mul half (FpVal.sub b e)
  let h2r := FpVal.mul (match d with | .forward => half | .inverse => negHalf) (FpVal.add b e)
  let h2i := FpVal.mul (match d with | .forward => negHalf | .inverse => half) (FpVal.sub a c)
  let t := Cplx.rotate w (h2r, h2i)
  ((FpVal.add h1r t.1, FpVal.add h1i t.2), (FpVal.sub h1r t.1, FpVal.sub t.2 h1i))

/-- The DC/Nyquist step (44_realfft.md R152, R153): the new words 0 and 1. -/
def edgeResults (d : Dir) (x : Signal) : Cplx :=
  match d with
  | .forward => (FpVal.add (x 0) (x 1), FpVal.sub (x 0) (x 1))
  | .inverse => (FpVal.mul (some half64) (FpVal.add (x 0) (x 1)), FpVal.mul (some half64) (FpVal.sub (x 0) (x 1)))

/-- The part of a complex value that word `i` holds (10_state.md R21: even real, odd imaginary). -/
def Cplx.part (z : Cplx) (i : Nat) : FpVal := if i % 2 = 0 then z.1 else z.2

/-- The post/pre-processing pass for real length `n` (44_realfft.md R151, R154, R160), as an equation for every word: bin
0 by the DC/Nyquist step, bin `n/4` unchanged, bins below `n/4` and above it by their pairs. `tw` is the twiddle row
`log2(n/2)`. -/
def postSignal (tw : Nat → Cplx) (n : Nat) (d : Dir) (x : Signal) : Signal := fun i =>
  let q := i / 2
  if q = 0 then (edgeResults d x).part i
  else if 4 * q < n then (pairResults (tw q) d n q x).1.part i
  else if 4 * q = n then x i
  else (pairResults (tw (n / 2 - q)) d n (n / 2 - q) x).2.part i

/-- RXFORM of real length `2^(m+1)` (44_realfft.md R157, R158): core then post-processor when forward, pre-processor then
core when inverse. -/
def realSignal (tw : Nat → Nat → Cplx) (m : Nat) (d : Dir) (x : Signal) : Signal :=
  match d with
  | .forward => postSignal (tw m) (2 ^ (m + 1)) .forward (coreSignal tw m .forward x)
  | .inverse => coreSignal tw m .inverse (postSignal (tw m) (2 ^ (m + 1)) .inverse x)

/-- A `SWAPC`. -/
def MicroOp.isSwapc : MicroOp → Bool
  | .swapc _ _ => true
  | _ => false

/-- A `BFLY`. -/
def MicroOp.isBfly : MicroOp → Bool
  | .bfly _ _ => true
  | _ => false

/-- A `TWSEED`. -/
def MicroOp.isTwseed : MicroOp → Bool
  | .twseed _ _ => true
  | _ => false

/-- A `TWSTEP`. -/
def MicroOp.isTwstep : MicroOp → Bool
  | .twstep => true
  | _ => false

/-- A `TWLOAD`. -/
def MicroOp.isTwload : MicroOp → Bool
  | .twload _ _ => true
  | _ => false

/-- A `SCALE`. -/
def MicroOp.isScale : MicroOp → Bool
  | .scale _ _ => true
  | _ => false

/-- The four XFORM commands by direction and mode (30_encoding.md R66). -/
def xformInstr (d : Dir) (twm : TwMode) (len : Nat) : Instr :=
  match d, twm with
  | .forward, .recurrence => .xformFR len
  | .inverse, .recurrence => .xformIR len
  | .forward, .table => .xformFT len
  | .inverse, .table => .xformIT len

/-- The four RXFORM commands by direction and mode (30_encoding.md R66). -/
def rxformInstr (d : Dir) (twm : TwMode) (len : Nat) : Instr :=
  match d, twm with
  | .forward, .recurrence => .rxformFR len
  | .inverse, .recurrence => .rxformIR len
  | .forward, .table => .rxformFT len
  | .inverse, .table => .rxformIT len

end Sys2Proof.Machine
end

