-- ==== Sys2Proof/Safety.lean ====
section
/-! DEFINITION. What a safe state is: the invariants of 10_state.md R35 as far as they are about one state, the
canonical form of the memories, and the well-formed pending list of a running command. -/

namespace Sys2Proof.Machine

/-- The number of DMEM words a command may touch, from word 0 up (20_memory.md R55): its `LEN`; none for NOP and
INIT. -/
def signalWords : Instr → Nat
  | .nop => 0
  | .init _ => 0
  | .permute len => len
  | .xformFR len => len
  | .xformIR len => len
  | .xformFT len => len
  | .xformIT len => len
  | .rxformFR len => len
  | .rxformIR len => len
  | .rxformFT len => len
  | .rxformIT len => len

/-- The length check of each command (30_encoding.md R63). -/
def lengthAdmitted (c : Config) : Instr → Bool
  | .nop => true
  | .init size => sizeOk c size
  | .permute len => lenOk c len
  | .xformFR len => lenOk c len
  | .xformIR len => lenOk c len
  | .xformFT len => lenOk c len
  | .xformIT len => lenOk c len
  | .rxformFR len => lenOk c len
  | .rxformIR len => lenOk c len
  | .rxformFT len => lenOk c len
  | .rxformIT len => lenOk c len

/-- The table check of each command (42_twiddle.md R124): XFORM needs a table of `LEN / 2`, RXFORM of `LEN`, in table
mode only. -/
def tableAdmitted (tag : TableTag) : Instr → Bool
  | .nop => true
  | .init _ => true
  | .permute _ => true
  | .xformFR _ => true
  | .xformIR _ => true
  | .xformFT len => tag.valid && tag.size == len / 2
  | .xformIT len => tag.valid && tag.size == len / 2
  | .rxformFR _ => true
  | .rxformIR _ => true
  | .rxformFT len => tag.valid && tag.size == len
  | .rxformIT len => tag.valid && tag.size == len

/-- The code of a word: the first condition met, in the order IllegalCommand, InvalidLength, UninitializedTable
(60_exceptions.md R196, 45_command_control.md R172). -/
def reportCode (c : Config) (tag : TableTag) (w : Reg32) : ErrCode :=
  match decode w with
  | .error _ => .illegalCommand
  | .ok i =>
    if lengthAdmitted c i = false then .invalidLength
    else if tableAdmitted tag i = false then .uninitializedTable
    else .ok

/-- A read of STATUS or CAP, or any transaction while `BUSY = 0`, at an existing index, and no write to a read-only
target: what the port does not refuse (20_memory.md R42, R44, R47). -/
def portAllows (s : State) : Txn → Prop
  | .read .csr i => i < 4 ∧ (s.busy = true → i = 1 ∨ i = 3)
  | .read .dmem i => i < s.cfg.dmemWords ∧ s.busy = false
  | .read .twt i => i < 4 * s.cfg.twtEntries ∧ s.busy = false
  | .writeCsr i _ => i = 0 ∧ s.busy = false
  | .writeDmem i _ => i < s.cfg.dmemWords ∧ s.busy = false
  | .writeTwt _ _ => False

/-- Every memory is in its canonical form (log 25). -/
def State.memWf (s : State) : Bool :=
  Mem.wf s.cfg.dmemWords s.dmem && Mem.wf s.cfg.twtEntries s.twtF && Mem.wf s.cfg.twtEntries s.twtI

/-- A micro-operation that a running command may still hold before its `FINISH` (45_command_control.md R171): no
`FINISH`, every index existing (20_memory.md R47), and a `TSET` only of an admitted size (42_twiddle.md R119). -/
def MicroOp.isWork (c : Config) (op : MicroOp) : Bool :=
  op.inRange c &&
    match op with
    | .finish _ => false
    | .tset size => sizeOk c size
    | _ => true

/-- The pending list of a running command: work, then exactly one `FINISH` (45_command_control.md R171). -/
def pendOk (c : Config) (ops : List MicroOp) : Prop :=
  ∃ work code, ops = work ++ [.finish code] ∧ ∀ op ∈ work, op.isWork c = true

/-- The invariant of every reachable state (10_state.md R35). -/
structure SafeState (s : State) : Prop where
  /-- The memories are in canonical form. -/
  mem : s.memWf = true
  /-- R35.1: `BUSY = 1` implies `DONE = 0`. -/
  busyNotDone : s.busy = true → s.done = false
  /-- R35.1 and R24: no code stands without `DONE`. -/
  errNeedsDone : s.done = false → s.err = 0
  /-- R35.2: `ERR` is one of 0, 1, 2, 3. -/
  errCode : s.err.toNat ≤ 3
  /-- R35.3: a valid tag is an admitted size. -/
  tagSize : s.tblValid = true → sizeOk s.cfg s.tblSize.toNat = true
  /-- R35.5: without a table the size is 0. -/
  tagEmpty : s.tblValid = false → s.tblSize = 0
  /-- R35.4: `BUSY = 0` implies `PEND` is empty. -/
  idlePend : s.busy = false → s.pend = []
  /-- R177: while `BUSY = 1`, `PEND` is a work list with its `FINISH`. -/
  busyPend : s.busy = true → pendOk s.cfg s.pend

/-- The tables hold what their tag says (10_state.md R23): for every row below `log2(TBL_SIZE)`, direction and offset the
entry is `W(row, d, mi)`, up to the bits of a NaN. -/
def TablesMatchTag (s : State) : Prop :=
  s.tblValid = true → ∀ row < log2 s.tblSize.toNat, ∀ d, ∀ mi < 2 ^ row,
    fpPair (s.T d (twIndex row mi)) = twiddleW row d mi

/-- The tables match their tag whenever no command runs: now if `BUSY = 0`, and else after the pending list
(10_state.md R35.3, R35.5). -/
def TablesSettle (s : State) : Prop := TablesMatchTag (effects s.pend s)

end Sys2Proof.Machine
end

