-- ==== Sys2Proof/Certificates/Slice0/Obligations.lean ====
section
/-! DEFINITION. The statements for the provers. Each docstring names the rule of spec/ it formalises. Where a statement
gives an arithmetic result it gives its value (`fpVal`): a binary64 number bit for bit, or "a NaN" whose bits
40_numerics.md R85 leaves free, so it holds for every draw. Three fields in them are the model's own way to hold what the
spec says in words: `resp`, the response the host sees (log 13), `draw`, the number of the next NaN draw (log 7), and
`inbox`, who acts next (log 1, log 2). -/

open Sys2Proof Sys2Proof.Machine

/-! ## Encoding -/

/-- Every well-formed command, with its operand at every value its field admits, is read back from its word
(30_encoding.md R61, R64, R69). -/
def Obligations.EncodeThenDecodeIsIdentity : Prop :=
  ∀ i : Instr, i.wellFormed = true → decode (encode i) = .ok i

/-- Every word that decodes to a command is that command's word, and the command is well-formed (30_encoding.md R61,
R64, R69): no bit of a word is dropped. -/
def Obligations.DecodeThenEncodeIsIdentity : Prop :=
  ∀ (w : Reg32) (i : Instr), decode w = .ok i → encode i = w ∧ i.wellFormed = true

/-- 30_encoding.md R66, whole: the eleven rows with their masks and matches, `LEN` a field in every row but NOP's, the
rows disjoint, and a word illegal exactly when it matches none. -/
def Obligations.OpcodeMapIsTheCommandSet : Prop :=
  (∀ len : Nat,
    Instr.row .nop = ⟨0xFFFFFFFF#32, 0x00000000#32⟩ ∧ Instr.row (.init len) = ⟨0x000000FF#32, 0x00000001#32⟩ ∧
    Instr.row (.permute len) = ⟨0x000000FF#32, 0x00000002#32⟩ ∧
    Instr.row (.xformFR len) = ⟨0x000000FF#32, 0x00000003#32⟩ ∧
    Instr.row (.xformIR len) = ⟨0x000000FF#32, 0x00000013#32⟩ ∧
    Instr.row (.xformFT len) = ⟨0x000000FF#32, 0x00000023#32⟩ ∧
    Instr.row (.xformIT len) = ⟨0x000000FF#32, 0x00000033#32⟩ ∧
    Instr.row (.rxformFR len) = ⟨0x000000FF#32, 0x00000004#32⟩ ∧
    Instr.row (.rxformIR len) = ⟨0x000000FF#32, 0x00000014#32⟩ ∧
    Instr.row (.rxformFT len) = ⟨0x000000FF#32, 0x00000024#32⟩ ∧
    Instr.row (.rxformIT len) = ⟨0x000000FF#32, 0x00000034#32⟩) ∧
  opcodeRows.length = 11 ∧
  (∀ i : Instr, i.row ∈ opcodeRows) ∧
  (∀ (w : Reg32) (i : Instr), decode w = .ok i → i.row.matches w = true ∧ (i ≠ .nop → i.lenField = w.toNat / 256)) ∧
  (∀ w : Reg32, (∃ e, decode w = .error e) ↔ ∀ r ∈ opcodeRows, r.matches w = false) ∧
  (∀ w : Reg32, ∀ r ∈ opcodeRows, ∀ r' ∈ opcodeRows, r.matches w = true → r'.matches w = true → r = r')

/-- The illegal words are those 60_exceptions.md R193 lists: `RSV != 0`; `OPC` in 0x5 .. 0xF; `DIR` or `TWM` set with
NOP, INIT or PERMUTE; `LEN != 0` with NOP. -/
def Obligations.IllegalWordsAreTheListedOnes : Prop :=
  ∀ w : Reg32, (∃ e, decode w = .error e) ↔
    (w.toNat / 64 % 4 ≠ 0 ∨ 5 ≤ w.toNat % 16 ∨ (w.toNat % 16 ≤ 2 ∧ w.toNat / 16 % 4 ≠ 0) ∨
      (w.toNat % 16 = 0 ∧ w.toNat / 256 ≠ 0))

/-- Words written out in 95_test_vectors.md section 2 and 30_encoding.md R69 decode to the commands they stand for. -/
def Obligations.WrittenWordsDecode : Prop :=
  decode 0x00000000#32 = .ok .nop ∧ decode 0x00000801#32 = .ok (.init 8) ∧
  decode 0x00200001#32 = .ok (.init 8192) ∧ decode 0x00001002#32 = .ok (.permute 16) ∧
  decode 0x00000803#32 = .ok (.xformFR 8) ∧ decode 0x00000813#32 = .ok (.xformIR 8) ∧
  decode 0x00001023#32 = .ok (.xformFT 16) ∧ decode 0x00001033#32 = .ok (.xformIT 16) ∧
  decode 0x00000804#32 = .ok (.rxformFR 8) ∧ decode 0x00000814#32 = .ok (.rxformIR 8) ∧
  decode 0x00001024#32 = .ok (.rxformFT 16) ∧ decode 0x00001034#32 = .ok (.rxformIT 16) ∧
  decode 0x00000843#32 = .error .reservedBits ∧ decode 0x00000010#32 = .error .nopArgument

/-! ## Numerics -/

/-- The sum of two finite words is a finite word nearest to the exact sum, the even one of two equally near (40_numerics.md
R81, R84), or an infinity of the exact sum's sign when the exact sum is at or beyond the middle between the largest finite
value and `2^1024` (R84). Values are in units of `2^-1074`; the largest finite is `(2^53 - 1) * 2^971`. -/
def Obligations.SumIsRoundedOnceToNearestEven : Prop :=
  ∀ a b : Word, isFinite a = true → isFinite b = true →
    ∃ r, addNum a b = some r ∧
      (isFinite r = true → ∀ z : Word, isFinite z = true →
        |valueOf r - (valueOf a + valueOf b)| ≤ |valueOf z - (valueOf a + valueOf b)| ∧
        (|valueOf r - (valueOf a + valueOf b)| = |valueOf z - (valueOf a + valueOf b)| → valueOf z ≠ valueOf r →
          fracOf r % 2 = 0)) ∧
      (isFinite r = false → isInf r = true ∧ (2 ^ 54 - 1) * 2 ^ 2044 ≤ |valueOf a + valueOf b| ∧
        (signOf r = true ↔ valueOf a + valueOf b < 0)) ∧
      (|valueOf a + valueOf b| < (2 ^ 54 - 1) * 2 ^ 2044 → isFinite r = true)

/-- The product of two finite words, likewise (40_numerics.md R83, R84). The exact product is in units of `2^-2148`. -/
def Obligations.ProductIsRoundedOnceToNearestEven : Prop :=
  ∀ a b : Word, isFinite a = true → isFinite b = true →
    ∃ r, mulNum a b = some r ∧ signOf r = (signOf a != signOf b) ∧
      (isFinite r = true → ∀ z : Word, isFinite z = true →
        |valueOf r * 2 ^ 1074 - valueOf a * valueOf b| ≤ |valueOf z * 2 ^ 1074 - valueOf a * valueOf b| ∧
        (|valueOf r * 2 ^ 1074 - valueOf a * valueOf b| = |valueOf z * 2 ^ 1074 - valueOf a * valueOf b| →
          valueOf z ≠ valueOf r → fracOf r % 2 = 0)) ∧
      (isFinite r = false → isInf r = true ∧ (2 ^ 54 - 1) * 2 ^ 3118 ≤ |valueOf a * valueOf b|) ∧
      (|valueOf a * valueOf b| < (2 ^ 54 - 1) * 2 ^ 3118 → isFinite r = true)

/-- When the result of an operation is a NaN, and that nothing but the NaN's bits depends on the draw (40_numerics.md R81,
R83, R85). -/
def Obligations.ResultIsNaNExactlyWhen : Prop :=
  (∀ (q : Nat) (a b : Word), isNaN (fadd q a b) = true ↔
    (isNaN a = true ∨ isNaN b = true ∨ (isInf a = true ∧ isInf b = true ∧ signOf a ≠ signOf b))) ∧
  (∀ (q : Nat) (a b : Word), isNaN (fsub q a b) = true ↔
    (isNaN a = true ∨ isNaN b = true ∨ (isInf a = true ∧ isInf b = true ∧ signOf a = signOf b))) ∧
  (∀ (q : Nat) (a b : Word), isNaN (fmul q a b) = true ↔
    (isNaN a = true ∨ isNaN b = true ∨ (isInf a = true ∧ isZero b = true) ∨ (isZero a = true ∧ isInf b = true))) ∧
  (∀ (q q' : Nat) (a b : Word), isNaN (fadd q a b) = false → fadd q' a b = fadd q a b) ∧
  (∀ (q q' : Nat) (a b : Word), isNaN (fmul q a b) = false → fmul q' a b = fmul q a b)

/-- The special cases of the sum (40_numerics.md R81): infinities, the sign of an exact zero, and `x + (+-0) = x`. -/
def Obligations.SumSpecialCases : Prop :=
  (∀ a b : Word, isInf a = true → isFinite b = true → addNum a b = some a ∧ addNum b a = some a) ∧
  (∀ a b : Word, isInf a = true → isInf b = true → signOf a = signOf b → addNum a b = some a) ∧
  (∀ a b : Word, isFinite a = true → isFinite b = true → isZero a = false → valueOf a + valueOf b = 0 →
    addNum a b = some 0x0000000000000000#64) ∧
  addNum 0x0000000000000000#64 0x0000000000000000#64 = some 0x0000000000000000#64 ∧
  addNum 0x0000000000000000#64 0x8000000000000000#64 = some 0x0000000000000000#64 ∧
  addNum 0x8000000000000000#64 0x0000000000000000#64 = some 0x0000000000000000#64 ∧
  addNum 0x8000000000000000#64 0x8000000000000000#64 = some 0x8000000000000000#64 ∧
  (∀ x z : Word, isNaN x = false → isZero x = false → isZero z = true → addNum x z = some x ∧ addNum z x = some x)

/-- 40_numerics.md R82, whole: `fsub` is `fadd` of the negation, `fneg` inverts bit 63 of any datum and nothing else, and
the listed cases. -/
def Obligations.SubtractionIsSumOfNegation : Prop :=
  (∀ (q : Nat) (a b : Word), fsub q a b = fadd q a (fneg b)) ∧
  (∀ (a : Word) (k : Nat), k < 64 → (fneg a).getLsbD k = (if k = 63 then !a.getLsbD k else a.getLsbD k)) ∧
  (∀ (q : Nat) (x : Word), isFinite x = true → fsub q x x = 0x0000000000000000#64) ∧
  (∀ q : Nat, fsub q 0x0000000000000000#64 0x0000000000000000#64 = 0x0000000000000000#64 ∧
    fsub q 0x8000000000000000#64 0x0000000000000000#64 = 0x8000000000000000#64 ∧
    fsub q 0x0000000000000000#64 0x8000000000000000#64 = 0x0000000000000000#64) ∧
  (∀ (q : Nat) (a b : Word), isInf a = true → isInf b = true → signOf a = signOf b → isNaN (fsub q a b) = true)

/-- Exactness facts (40_numerics.md R92 items 1, 2, 4): `1.0 * x = x`; multiplication by `2^-r` exact when the exact result
is at least the smallest normal value (`2^52` units of `2^-1074`); sums and products commute; `inf * nonzero` and
`0 * finite` of R83. -/
def Obligations.ExactProductsAndCommutation : Prop :=
  (∀ x : Word, isNaN x = false → mulNum one64 x = some x) ∧
  (∀ (x : Word) (r : Nat), r ≤ 22 → isFinite x = true → 2 ^ (52 + r) ≤ |valueOf x| →
    ∃ y, mulNum x (pow2Neg r) = some y ∧ valueOf y * 2 ^ r = valueOf x) ∧
  (∀ a b : Word, addNum a b = addNum b a) ∧
  (∀ a b : Word, mulNum a b = mulNum b a) ∧
  (∀ a b : Word, isInf a = true → isNaN b = false → isZero b = false →
    ∃ r, mulNum a b = some r ∧ isInf r = true ∧ signOf r = (signOf a != signOf b)) ∧
  (∀ a b : Word, isZero a = true → isFinite b = true →
    ∃ r, mulNum a b = some r ∧ isZero r = true ∧ signOf r = (signOf a != signOf b))

/-! ## Micro-operations -/

/-- `SWAPC a b` exchanges two complex samples as bit patterns and changes nothing else (41_bitrev.md R100). -/
def Obligations.SwapcExchangesTwoSamples : Prop :=
  ∀ (s : State) (a b : Nat), a < b → 2 * b + 1 < s.cfg.dmemWords →
    ∃ t, perform (.swapc a b) s = .ok t ∧
      t.D (2 * a) = s.D (2 * b) ∧ t.D (2 * a + 1) = s.D (2 * b + 1) ∧
      t.D (2 * b) = s.D (2 * a) ∧ t.D (2 * b + 1) = s.D (2 * a + 1) ∧
      (∀ i, i / 2 ≠ a → i / 2 ≠ b → t.D i = s.D i) ∧
      t = { s with dmem := t.dmem }

/-- `BFLY k j` (43_butterfly.md R130): the four results from the four old words and the twiddle factor; no other word
changes; nothing else changes but the draw counter (the model's own field, log 7). -/
def Obligations.BflyComputesTheButterfly : Prop :=
  ∀ (s : State) (k j : Nat), k + 1 < j → j + 1 < s.cfg.dmemWords →
    ∃ t, perform (.bfly k j) s = .ok t ∧
      (let w : Cplx := (fpVal s.wr, fpVal s.wi)
       let x := s.signal
       let u : Cplx := w.rotate (x j, x (j + 1))
       fpVal (t.D k) = FpVal.add (x k) u.1 ∧ fpVal (t.D (k + 1)) = FpVal.add (x (k + 1)) u.2 ∧
       fpVal (t.D j) = FpVal.sub (x k) u.1 ∧ fpVal (t.D (j + 1)) = FpVal.sub (x (k + 1)) u.2) ∧
      (∀ i, i ≠ k → i ≠ k + 1 → i ≠ j → i ≠ j + 1 → t.D i = s.D i) ∧
      t = { s with dmem := t.dmem, draw := t.draw }

/-- `SCALE i r` (43_butterfly.md R134), `RDC 0` (44_realfft.md R152) and `RDC 1` (R153), with what each leaves. -/
def Obligations.ScaleAndEdgeSteps : Prop :=
  (∀ (s : State) (i r : Nat), r ≤ 22 → i < s.cfg.dmemWords →
    ∃ t, perform (.scale i r) s = .ok t ∧ fpVal (t.D i) = FpVal.mul (fpVal (s.D i)) (some (pow2Neg r)) ∧
      (∀ m, m ≠ i → t.D m = s.D m) ∧ t = { s with dmem := t.dmem, draw := t.draw }) ∧
  (∀ s : State,
    ∃ t, perform (.rdc .forward) s = .ok t ∧
      fpVal (t.D 0) = FpVal.add (fpVal (s.D 0)) (fpVal (s.D 1)) ∧
      fpVal (t.D 1) = FpVal.sub (fpVal (s.D 0)) (fpVal (s.D 1)) ∧
      (∀ m, 1 < m → t.D m = s.D m) ∧ t = { s with dmem := t.dmem, draw := t.draw }) ∧
  (∀ s : State,
    ∃ t, perform (.rdc .inverse) s = .ok t ∧
      fpVal (t.D 0) = FpVal.mul (some half64) (FpVal.add (fpVal (s.D 0)) (fpVal (s.D 1))) ∧
      fpVal (t.D 1) = FpVal.mul (some half64) (FpVal.sub (fpVal (s.D 0)) (fpVal (s.D 1))) ∧
      (∀ m, 1 < m → t.D m = s.D m) ∧ t = { s with dmem := t.dmem, draw := t.draw })

/-- `RPAIR j d` for real length `n` (44_realfft.md R150, R151): the four words of bins `j` and `n/2 - j`; no other. -/
def Obligations.RpairComputesThePair : Prop :=
  ∀ (s : State) (j n : Nat) (d : Dir), 1 ≤ j → 4 * j < n → n % 2 = 0 → n ≤ s.cfg.dmemWords →
    ∃ t, perform (.rpair j d n) s = .ok t ∧
      (let z := pairResults (fpVal s.wr, fpVal s.wi) d n j s.signal
       fpVal (t.D (2 * j)) = z.1.1 ∧ fpVal (t.D (2 * j + 1)) = z.1.2 ∧
       fpVal (t.D (n - 2 * j)) = z.2.1 ∧ fpVal (t.D (n - 2 * j + 1)) = z.2.2) ∧
      (∀ i, i / 2 ≠ j → i / 2 ≠ n / 2 - j → t.D i = s.D i) ∧
      t = { s with dmem := t.dmem, draw := t.draw }

/-- The twiddle generator and the tables: `TWSEED` (42_twiddle.md R112), `TWSTEP` (R113), `TWLOAD` (R115), `TWSTORE`
(R116), `TSET` (R120), each with what it leaves unchanged. -/
def Obligations.TwiddleMicroOperations : Prop :=
  (∀ (s : State) (row : Nat) (d : Dir), row ≤ s.cfg.logn →
    perform (.twseed row d) s =
      .ok { s with ct := romC row, st := (if d = .forward then romS row else fneg (romS row)),
                   wr := 0x3FF0000000000000#64, wi := 0x0000000000000000#64 }) ∧
  (∀ s : State, ∃ t, perform .twstep s = .ok t ∧
    fpVal t.wr = FpVal.sub (FpVal.mul (fpVal s.wr) (fpVal s.ct)) (FpVal.mul (fpVal s.wi) (fpVal s.st)) ∧
    fpVal t.wi = FpVal.add (FpVal.mul (fpVal s.wi) (fpVal s.ct)) (FpVal.mul (fpVal s.wr) (fpVal s.st)) ∧
    t = { s with wr := t.wr, wi := t.wi, draw := t.draw }) ∧
  (∀ (s : State) (d : Dir) (e : Nat), e < s.cfg.twtEntries →
    perform (.twload d e) s = .ok { s with wr := (s.T d e).1, wi := (s.T d e).2 }) ∧
  (∀ (s : State) (d : Dir) (e : Nat), e < s.cfg.twtEntries →
    ∃ t, perform (.twstore d e) s = .ok t ∧ t.T d e = (s.wr, s.wi) ∧
      (∀ d' e', d' ≠ d ∨ e' ≠ e → t.T d' e' = s.T d' e') ∧ t = { s with twtF := t.twtF, twtI := t.twtI }) ∧
  (∀ (s : State) (size : Nat), size < 2 ^ 24 →
    ∃ t, perform (.tset size) s = .ok t ∧ t.tblValid = true ∧ t.tblSize.toNat = size ∧
      t = { s with tblValid := t.tblValid, tblSize := t.tblSize })

/-- The two directions' twiddles are conjugate (42_twiddle.md R122, by 40_numerics.md R92 item 3). The seeds of a row are,
with `WI = +0.0` in both; so are the states one `TWSTEP` later. `TWSTEP` keeps any conjugate pair conjugate; where `WI` is
a zero in both and not negated, this needs `WR * CT` not to be `-0` (then the two new `WR` are zeros of different sign).
So for every row and offset the two `W` have the same real part and opposite imaginary parts, but for the sign of a part
that is a zero in both; and the real part is the same bit for bit where no `WR * CT` on the way is `-0`. -/
def Obligations.TwstepKeepsConjugates : Prop :=
  (∀ (s s' : State) (row : Nat), row ≤ s.cfg.logn → row ≤ s'.cfg.logn → ∃ t t' u u',
    perform (.twseed row .forward) s = .ok t ∧ perform (.twseed row .inverse) s' = .ok t' ∧
    t.wi = 0x0000000000000000#64 ∧ t'.wi = 0x0000000000000000#64 ∧ Conjugate t t' ∧
    perform .twstep t = .ok u ∧ perform .twstep t' = .ok u' ∧ Conjugate u u') ∧
  (∀ s s' : State, Conjugate s s' →
    (fpVal s'.wi = FpVal.neg (fpVal s.wi) ∨ mulNum s.wr s.ct ≠ some 0x8000000000000000#64) →
    ∃ t t', perform .twstep s = .ok t ∧ perform .twstep s' = .ok t' ∧ Conjugate t t') ∧
  (∀ row mi : Nat,
    ((twiddleW row .inverse mi).1 = (twiddleW row .forward mi).1 ∨
      ((twiddleW row .inverse mi).1.isZero = true ∧ (twiddleW row .forward mi).1.isZero = true)) ∧
    ((twiddleW row .inverse mi).2 = FpVal.neg (twiddleW row .forward mi).2 ∨
      ((twiddleW row .inverse mi).2.isZero = true ∧ (twiddleW row .forward mi).2.isZero = true)) ∧
    ((∀ m < mi, FpVal.mul (twiddleW row .forward m).1 (fpVal (romC row)) ≠ some 0x8000000000000000#64) →
      (twiddleW row .inverse mi).1 = (twiddleW row .forward mi).1))

/-- How many micro-operations of each kind a core of `2^n` points has (43_butterfly.md R140, the counts), in both directions
and both modes. -/
def Obligations.CoreMicroOperationCounts : Prop :=
  (∀ (n : Nat) (d : Dir) (twm : TwMode),
    2 * (seqCore (2 ^ n) d twm).countP MicroOp.isSwapc + 2 ^ ((n + 1) / 2) = 2 ^ n ∧
    2 * (seqCore (2 ^ n) d twm).countP MicroOp.isBfly = 2 ^ n * n ∧
    (seqCore (2 ^ n) d twm).countP MicroOp.isScale = (if d = .inverse then 2 * 2 ^ n else 0)) ∧
  (∀ (n : Nat) (d : Dir),
    (seqCore (2 ^ n) d .recurrence).countP MicroOp.isTwseed = n ∧
    (seqCore (2 ^ n) d .recurrence).countP MicroOp.isTwstep + 1 + n = 2 ^ n ∧
    (seqCore (2 ^ n) d .recurrence).countP MicroOp.isTwload = 0 ∧
    (seqCore (2 ^ n) d .table).countP MicroOp.isTwseed = 0 ∧
    (seqCore (2 ^ n) d .table).countP MicroOp.isTwstep = 0 ∧
    (seqCore (2 ^ n) d .table).countP MicroOp.isTwload + 1 = 2 ^ n)

/-- `expand(w)` is work and then exactly one `FINISH` (45_command_control.md R171); a failing command performs nothing; no
index of it is out of range (20_memory.md R47). For every word, parameter and tag. -/
def Obligations.ExpansionIsInRangeAndFinishes : Prop :=
  ∀ (c : Config) (tag : TableTag) (w : Reg32),
    ∃ ops code, expand c tag w = ops ++ [.finish code] ∧ (∀ op ∈ ops, op.isWork c = true) ∧
      (code ≠ .ok → ops = [])

/-! ## Commands -/

/-- 45_command_control.md R173, whole: `NOP` is the zero word exactly; it completes with `ERR = 0` and changes nothing but
CMD and STATUS (the response is the write's Ok, PEND is empty, and the working registers, which the spec leaves unspecified
after a command, stand free); any other word with `OPC = 0` is illegal. -/
def Obligations.NopOnlyReports : Prop :=
  encode .nop = 0x00000000#32 ∧ decode 0x00000000#32 = .ok .nop ∧
  (∀ (c : Config) (tag : TableTag), planOf c tag .nop = ⟨[], .ok⟩) ∧
  (∀ s : State, s.busy = false →
    ∃ t, exec .nop s = .next t ∧
      t = { s with
            cmd := 0, busy := false, done := true, err := 0, pend := [], resp := some .ok,
            wr := t.wr, wi := t.wi, ct := t.ct, st := t.st }) ∧
  (∀ s t : State, s.busy = false → exec .nop s = .next t → t.statusWord = 0x00000002#32) ∧
  (∀ w : Reg32, opcField w = 0 → w ≠ 0 → ∃ e, decode w = .error e)

/-- An illegal word called from `BUSY = 0` is accepted, does nothing and completes with `ERR = 3` (45_command_control.md
R174, 60_exceptions.md R193). -/
def Obligations.IllegalWordCompletesWithThree : Prop :=
  ∀ (s : State) (w : Reg32) (e : Illegal) (rest : List Event), s.busy = false → s.inbox = .call w :: rest →
    decode w = .error e →
    step s =
      .next { s with inbox := rest, cmd := w, busy := false, done := true, err := 3, pend := [], resp := some .ok }

/-- INIT of an admitted size (42_twiddle.md R119, effect): it completes with `ERR = 0`; every entry of the rows below
`log2(size)` of both tables is `W(row, d, mi)`; entries at `size - 1` and above, DMEM and everything else are as before;
the tag is `size`. -/
def Obligations.InitBuildsBothTables : Prop :=
  ∀ (s : State) (n : Nat), s.busy = false → n ≤ s.cfg.logn + 1 →
    ∃ t, exec (.init (2 ^ n)) s = .next t ∧
      (∀ row < n, ∀ d, ∀ mi < 2 ^ row, fpPair (t.T d (2 ^ row - 1 + mi)) = twiddleW row d mi) ∧
      (∀ d e, 2 ^ n - 1 ≤ e → t.T d e = s.T d e) ∧
      t.tblValid = true ∧ t.tblSize.toNat = 2 ^ n ∧ t.statusWord = 0x00000002#32 ∧
      t = { s with
            twtF := t.twtF, twtI := t.twtI, tblValid := true, tblSize := t.tblSize, busy := false, done := true,
            err := 0, cmd := encode (.init (2 ^ n)), pend := [], wr := t.wr, wi := t.wi, ct := t.ct, st := t.st,
            draw := t.draw, resp := some .ok }

/-- 41_bitrev.md R101, whole, for the command: on `2^n` complex samples PERMUTE completes with `ERR = 0`, moves sample `i` to
`rev_n(i)`, equally takes sample `i` from `rev_n(i)`, bit for bit, and changes no other word and nothing else but CMD and
STATUS (working registers free, as for NOP); with the rule's tables of `rev_n`. -/
def Obligations.PermuteMovesEverySample : Prop :=
  (∀ (s : State) (n : Nat), s.busy = false → n ≤ s.cfg.logn →
    ∃ t, exec (.permute (2 * 2 ^ n)) s = .next t ∧
      (∀ i < 2 ^ n, t.D (2 * revBits n i) = s.D (2 * i) ∧ t.D (2 * revBits n i + 1) = s.D (2 * i + 1)) ∧
      (∀ i < 2 ^ n, t.D (2 * i) = s.D (2 * revBits n i) ∧ t.D (2 * i + 1) = s.D (2 * revBits n i + 1)) ∧
      (∀ i, 2 * 2 ^ n ≤ i → t.D i = s.D i) ∧
      t = { s with
            dmem := t.dmem, busy := false, done := true, err := 0, cmd := encode (.permute (2 * 2 ^ n)), pend := [],
            wr := t.wr, wi := t.wi, ct := t.ct, st := t.st, resp := some .ok }) ∧
  (∀ n i b : Nat, i < 2 ^ n → b < n → (revBits n i).testBit b = i.testBit (n - 1 - b)) ∧
  (∀ n i : Nat, i < 2 ^ n → revBits n i < 2 ^ n ∧ revBits n (revBits n i) = i) ∧
  (List.range 1).map (revBits 0) = [0] ∧ (List.range 2).map (revBits 1) = [0, 1] ∧
  (List.range 4).map (revBits 2) = [0, 2, 1, 3] ∧ (List.range 8).map (revBits 3) = [0, 4, 2, 6, 1, 5, 3, 7] ∧
  (List.range 16).map (revBits 4) = [0, 8, 4, 12, 2, 10, 6, 14, 1, 9, 5, 13, 3, 11, 7, 15]

/-- 41_bitrev.md R104, whole: running `seq_permute(N)` twice restores every word, for every content; each run is the same
set of exchanges of `a` with `rev_n(a)`. The same for two PERMUTE commands. -/
def Obligations.PermuteTwiceRestores : Prop :=
  (∀ (s : State) (n i : Nat),
    (effects (seqPermute (2 ^ n)) (effects (seqPermute (2 ^ n)) s)).D i = s.D i) ∧
  (∀ n : Nat, (seqPermute (2 ^ n)).Nodup ∧
    ∀ op ∈ seqPermute (2 ^ n), ∃ a b, op = .swapc a b ∧ a < b ∧ b < 2 ^ n ∧ b = revBits n a ∧ a = revBits n b) ∧
  (∀ (s : State) (n : Nat), s.busy = false → n ≤ s.cfg.logn →
    ∃ t u, exec (.permute (2 * 2 ^ n)) s = .next t ∧ exec (.permute (2 * 2 ^ n)) t = .next u ∧
      ∀ i, u.D i = s.D i)

/-- 41_bitrev.md R107, whole: the number of SWAPC of `seq_permute(2^n)`. -/
def Obligations.PermuteExchangeCount : Prop :=
  (∀ n : Nat, 2 * (seqPermute (2 ^ n)).length + 2 ^ ((n + 1) / 2) = 2 ^ n) ∧
  (∀ n : Nat, ((List.range (2 ^ n)).filter fun i => revBits n i = i).length = 2 ^ ((n + 1) / 2)) ∧
  (List.range 13).map (fun n => (2 ^ n - 2 ^ ((n + 1) / 2)) / 2) =
    [0, 0, 1, 2, 6, 12, 28, 56, 120, 240, 496, 992, 2016]

/-- XFORM, all four variants (43_butterfly.md R137; R101, R130, R131, R135, R136): on `2^n` complex samples it completes with
`ERR = 0`, and every word of the signal is what bit reversal, the stages and the scaling give it, as equations over the
whole signal; table mode uses the table entries as they are. Words above the signal, the tables, the tag are as before. -/
def Obligations.XformComputesTheStageNetwork : Prop :=
  ∀ (s : State) (n : Nat) (d : Dir) (twm : TwMode), s.busy = false → n ≤ s.cfg.logn →
    (twm = .table → s.tblValid = true ∧ s.tblSize.toNat = 2 ^ n) →
    ∃ t, exec (xformInstr d twm (2 * 2 ^ n)) s = .next t ∧
      (∀ i < 2 * 2 ^ n, fpVal (t.D i) = coreSignal (twiddleOf s d twm) n d s.signal i) ∧
      (∀ i, 2 * 2 ^ n ≤ i → t.D i = s.D i) ∧
      t = { s with
            dmem := t.dmem, busy := false, done := true, err := 0, cmd := encode (xformInstr d twm (2 * 2 ^ n)),
            pend := [], wr := t.wr, wi := t.wi, ct := t.ct, st := t.st, draw := t.draw, resp := some .ok }

/-- RXFORM, all four variants (44_realfft.md R157, R158; R150 to R154, R160): on `2^(m+1)` real samples it completes with
`ERR = 0`, and every word is what the core and the post/pre-processing equations give it. -/
def Obligations.RxformComputesTheRealTransform : Prop :=
  ∀ (s : State) (m : Nat) (d : Dir) (twm : TwMode), s.busy = false → m ≤ s.cfg.logn →
    (twm = .table → s.tblValid = true ∧ s.tblSize.toNat = 2 ^ (m + 1)) →
    ∃ t, exec (rxformInstr d twm (2 ^ (m + 1))) s = .next t ∧
      (∀ i < 2 ^ (m + 1), fpVal (t.D i) = realSignal (twiddleOf s d twm) m d s.signal i) ∧
      (∀ i, 2 ^ (m + 1) ≤ i → t.D i = s.D i) ∧
      t = { s with
            dmem := t.dmem, busy := false, done := true, err := 0, cmd := encode (rxformInstr d twm (2 ^ (m + 1))),
            pend := [], wr := t.wr, wi := t.wi, ct := t.ct, st := t.st, draw := t.draw, resp := some .ok }

/-- Table mode and recurrence mode give identical results (42_twiddle.md R121), when the tables hold what their tag says
(the invariant stated by TablesSettleIsKept), up to the bits of NaNs. -/
def Obligations.TableModeEqualsRecurrenceMode : Prop :=
  (∀ (s : State) (n : Nat) (d : Dir), s.busy = false → n ≤ s.cfg.logn → s.tblValid = true →
    s.tblSize.toNat = 2 ^ n → TablesMatchTag s →
    ∃ t u, exec (xformInstr d .table (2 * 2 ^ n)) s = .next t ∧
      exec (xformInstr d .recurrence (2 * 2 ^ n)) s = .next u ∧ ∀ i, fpVal (t.D i) = fpVal (u.D i)) ∧
  (∀ (s : State) (m : Nat) (d : Dir), s.busy = false → m ≤ s.cfg.logn → s.tblValid = true →
    s.tblSize.toNat = 2 ^ (m + 1) → TablesMatchTag s →
    ∃ t u, exec (rxformInstr d .table (2 ^ (m + 1))) s = .next t ∧
      exec (rxformInstr d .recurrence (2 ^ (m + 1))) s = .next u ∧ ∀ i, fpVal (t.D i) = fpVal (u.D i))

/-- The smallest sizes (43_butterfly.md R139, 44_realfft.md R163): `XFORM 2` forward changes no word; `XFORM 4` forward is
`[a+c, b+d, a-c, b-d]` (for finite nonzero `c`, `d`, where `1*c - 0*d` is `c` in value and sign); `RXFORM 2` is
`[x0+x1, x0-x1]` forward and half of them inverse. -/
def Obligations.SmallestTransforms : Prop :=
  (∀ s : State, s.busy = false → ∃ t, exec (.xformFR 2) s = .next t ∧ t.err = 0 ∧ ∀ i, t.D i = s.D i) ∧
  (∀ s : State, s.busy = false → isFinite (s.D 2) = true → isZero (s.D 2) = false → isFinite (s.D 3) = true →
    isZero (s.D 3) = false →
    ∃ t, exec (.xformFR 4) s = .next t ∧ t.err = 0 ∧
      fpVal (t.D 0) = FpVal.add (fpVal (s.D 0)) (fpVal (s.D 2)) ∧
      fpVal (t.D 1) = FpVal.add (fpVal (s.D 1)) (fpVal (s.D 3)) ∧
      fpVal (t.D 2) = FpVal.sub (fpVal (s.D 0)) (fpVal (s.D 2)) ∧
      fpVal (t.D 3) = FpVal.sub (fpVal (s.D 1)) (fpVal (s.D 3))) ∧
  (∀ s : State, s.busy = false →
    ∃ t, exec (.rxformFR 2) s = .next t ∧ t.err = 0 ∧
      fpVal (t.D 0) = FpVal.add (fpVal (s.D 0)) (fpVal (s.D 1)) ∧
      fpVal (t.D 1) = FpVal.sub (fpVal (s.D 0)) (fpVal (s.D 1))) ∧
  (∀ s : State, s.busy = false →
    ∃ t, exec (.rxformIR 2) s = .next t ∧ t.err = 0 ∧
      fpVal (t.D 0) = FpVal.mul (some half64) (FpVal.add (fpVal (s.D 0)) (fpVal (s.D 1))) ∧
      fpVal (t.D 1) = FpVal.mul (some half64) (FpVal.sub (fpVal (s.D 0)) (fpVal (s.D 1))))

/-- InvalidLength, exactly (60_exceptions.md R191): PERMUTE, XFORM and RXFORM of a length that is odd, zero, not twice a power
of two or above `DMEM_WORDS`, and INIT of a size that is zero, no power of two or above `2 * NMAX`, complete with
`ERR = 1` and change nothing but CMD and STATUS, whatever the tag. -/
def Obligations.BadLengthReportsOne : Prop :=
  (∀ (s : State) (len : Nat) (i : Instr), s.busy = false →
    (len % 2 = 1 ∨ len = 0 ∨ (¬ ∃ k, len / 2 = 2 ^ k) ∨ s.cfg.dmemWords < len) →
    (i = .permute len ∨ i = .xformFR len ∨ i = .xformIR len ∨ i = .xformFT len ∨ i = .xformIT len ∨
      i = .rxformFR len ∨ i = .rxformIR len ∨ i = .rxformFT len ∨ i = .rxformIT len) →
    exec i s =
      .next { s with cmd := encode i, busy := false, done := true, err := 1, pend := [], resp := some .ok }) ∧
  (∀ (s : State) (size : Nat), s.busy = false →
    (size = 0 ∨ (¬ ∃ k, size = 2 ^ k) ∨ 2 * s.cfg.nmax < size) →
    exec (.init size) s =
      .next { s with
              cmd := encode (.init size), busy := false, done := true, err := 1, pend := [], resp := some .ok })

/-- UninitializedTable (60_exceptions.md R192, 42_twiddle.md R124): a table-mode transform of an admitted length, with
`TBL_VALID = 0` or `TBL_SIZE` not the requested size (`LEN / 2` for XFORM, `LEN` for RXFORM), completes with `ERR = 2` and
changes nothing but CMD and STATUS. -/
def Obligations.MissingTableReportsTwo : Prop :=
  (∀ (s : State) (n : Nat) (d : Dir), s.busy = false → n ≤ s.cfg.logn →
    (s.tblValid = false ∨ s.tblSize.toNat ≠ 2 ^ n) →
    exec (xformInstr d .table (2 * 2 ^ n)) s =
      .next { s with
              cmd := encode (xformInstr d .table (2 * 2 ^ n)), busy := false, done := true, err := 2, pend := [],
              resp := some .ok }) ∧
  (∀ (s : State) (m : Nat) (d : Dir), s.busy = false → m ≤ s.cfg.logn →
    (s.tblValid = false ∨ s.tblSize.toNat ≠ 2 ^ (m + 1)) →
    exec (rxformInstr d .table (2 ^ (m + 1))) s =
      .next { s with
              cmd := encode (rxformInstr d .table (2 ^ (m + 1))), busy := false, done := true, err := 2, pend := [],
              resp := some .ok })

/-- 60_exceptions.md R196, whole: every word issued while `BUSY = 0` completes, and reports exactly the first condition it
meets in the order IllegalCommand, InvalidLength, UninitializedTable; with the rule's examples; port errors never set
`ERR`. -/
def Obligations.FirstFailingCheckIsReported : Prop :=
  (∀ (s : State) (w : Reg32), s.busy = false →
    ∃ t, command w (planWord s.cfg s.tag w) s = .next t ∧ t.err = (reportCode s.cfg s.tag w).bits ∧ t.done = true ∧
      t.busy = false ∧ t.cmd = w ∧
      (reportCode s.cfg s.tag w ≠ .ok →
        t = { s with cmd := w, busy := false, done := true, err := t.err, pend := [], resp := some .ok })) ∧
  (∀ (c : Config) (tag : TableTag), tag.valid = false → reportCode c tag 0x00000623#32 = .invalidLength ∧
    reportCode c tag 0x00000663#32 = .illegalCommand) ∧
  (∀ (s : State) (t : Txn) (e : PortErr), portErr t s = some e → (hostTurn t s).err = s.err)

/-- A command written while `BUSY = 1` gets Err and changes nothing (45_command_control.md R180). That a whole command
executed then is the same refused write is the model's reading (log 19, DEDUCED). -/
def Obligations.CommandWhileBusyIsRefused : Prop :=
  (∀ (s : State) (w : Reg32), s.busy = true → hostTurn (.writeCsr 0 w) s = { s with resp := some .err }) ∧
  (∀ (s : State) (i : Instr), s.busy = true → exec i s = .next { s with resp := some .err })

/-- The frame of every command (20_memory.md R55; 42_twiddle.md R125; 45_command_control.md R175, R181; 60_exceptions.md
R197): from `BUSY = 0`, DMEM words from `LEN` on (all of them for NOP and INIT) are as before; only INIT changes the tables
or the tag; a command that reports an error changes nothing but CMD and STATUS. -/
def Obligations.CommandFrame : Prop :=
  ∀ (i : Instr) (s t : State), s.busy = false → exec i s = .next t →
    (∀ a, signalWords i ≤ a → t.D a = s.D a) ∧
    ((∀ size, i ≠ .init size) →
      t.twtF = s.twtF ∧ t.twtI = s.twtI ∧ t.tblValid = s.tblValid ∧ t.tblSize = s.tblSize) ∧
    (t.err ≠ 0 → t = { s with cmd := t.cmd, busy := t.busy, done := t.done, err := t.err, pend := t.pend, resp := t.resp }) ∧
    t.cmd = encode i ∧ t.busy = false ∧ t.done = true ∧ t.pend = [] ∧ t.resp = some .ok ∧
    t.cfg = s.cfg ∧ t.epoch = s.epoch ∧ t.inbox = s.inbox

/-- A command reads no DMEM word beyond its signal (20_memory.md R55, 70_reset_and_hazards.md R221): two states that agree on
the signal's words give results that agree on them, and that agree in everything but DMEM. The agreement is bit for bit,
NaN words included, because in the model both runs start at one draw number (log 7; 40_numerics.md R85 does not promise
that two runs give equal NaN bits), and the working registers agree because the model keeps their last values (log 8): both are the
model's choice. -/
def Obligations.WordsBeyondTheSignalDoNotMatter : Prop :=
  ∀ (i : Instr) (s t : State) (m : Mem Word), s.busy = false →
    (∀ a < signalWords i, ({ s with dmem := m } : State).D a = s.D a) → exec i s = .next t →
    ∃ t', exec i { s with dmem := m } = .next t' ∧ (∀ a < signalWords i, t'.D a = t.D a) ∧
      t' = { t with dmem := t'.dmem }

/-- The values of the working registers before a command influence nothing but the working registers after it
(10_state.md R27). That DMEM and table words then agree bit for bit, NaN words included, is the model's choice: both runs
start at one draw number (log 7; 40_numerics.md R85 does not promise that two runs give equal NaN bits). -/
def Obligations.WorkingRegistersNeverMatter : Prop :=
  ∀ (i : Instr) (s t : State) (wr wi ct st : Word), s.busy = false → exec i s = .next t →
    ∃ t', exec i { s with wr := wr, wi := wi, ct := ct, st := st } = .next t' ∧
      t' = { t with wr := t'.wr, wi := t'.wi, ct := t'.ct, st := t'.st }

/-! ## The port and the sequencer -/

/-- The port refuses a transaction exactly when 20_memory.md R42 says so, and a refused one changes nothing (the response the
host sees is the model's own field). -/
def Obligations.PortRefusesExactlyWhen : Prop :=
  ∀ (s : State) (x : Txn),
    (¬ portAllows s x → hostTurn x s = { s with resp := some .err }) ∧
    (portAllows s x → (hostTurn x s).resp ≠ some .err)

/-- What an allowed read returns, and that it changes nothing (20_memory.md R43, R48): a register, a DMEM word, a word of the
linear view of the tables `t = d * 2E + 2e + c`. -/
def Obligations.PortReadsReturnTheElement : Prop :=
  (∀ s : State, s.busy = false →
    hostTurn (.read .csr 0) s = { s with resp := some (.reg s.cmd) } ∧
    hostTurn (.read .csr 2) s = { s with resp := some (.reg s.twsizeWord) }) ∧
  (∀ s : State, hostTurn (.read .csr 1) s = { s with resp := some (.reg s.statusWord) } ∧
    hostTurn (.read .csr 3) s = { s with resp := some (.reg s.capWord) }) ∧
  (∀ (s : State) (i : Nat), s.busy = false → i < s.cfg.dmemWords →
    hostTurn (.read .dmem i) s = { s with resp := some (.word (s.D i)) }) ∧
  (∀ (s : State) (e : Nat), s.busy = false → e < s.cfg.twtEntries →
    hostTurn (.read .twt (2 * e)) s = { s with resp := some (.word (s.T .forward e).1) } ∧
    hostTurn (.read .twt (2 * e + 1)) s = { s with resp := some (.word (s.T .forward e).2) } ∧
    hostTurn (.read .twt (2 * s.cfg.twtEntries + 2 * e)) s =
      { s with resp := some (.word (s.T .inverse e).1) } ∧
    hostTurn (.read .twt (2 * s.cfg.twtEntries + 2 * e + 1)) s =
      { s with resp := some (.word (s.T .inverse e).2) })

/-- An allowed DMEM write sets the one word and nothing else (20_memory.md R48, R50). -/
def Obligations.PortWriteSetsOneWord : Prop :=
  ∀ (s : State) (i : Nat) (v : Word), s.busy = false → i < s.cfg.dmemWords →
    ∃ t, hostTurn (.writeDmem i v) s = t ∧ t.D i = v ∧ (∀ a, a ≠ i → t.D a = s.D a) ∧
      t = { s with dmem := t.dmem, resp := some .ok }

/-- 30_encoding.md R67, whole: the layouts of the four registers, their access, and that the STATUS values of safe states
are exactly the six listed ones. -/
def Obligations.RegisterLayouts : Prop :=
  (∀ s : State,
    s.statusWord.getLsbD 0 = s.busy ∧ s.statusWord.getLsbD 1 = s.done ∧ s.statusWord.extractLsb' 2 2 = 0#2 ∧
    s.statusWord.extractLsb' 4 4 = s.err ∧ s.statusWord.extractLsb' 8 24 = 0#24 ∧
    s.twsizeWord.getLsbD 31 = s.tblValid ∧ s.twsizeWord.extractLsb' 24 7 = 0#7 ∧
    s.twsizeWord.extractLsb' 0 24 = s.tblSize ∧
    (s.capWord.extractLsb' 0 5).toNat = s.cfg.logn ∧ s.capWord.extractLsb' 5 3 = 0#3 ∧
    s.capWord.extractLsb' 8 8 = 1#8 ∧ s.capWord.extractLsb' 16 16 = 0#16) ∧
  (∀ (s : State) (w : Reg32), s.busy = false → (hostTurn (.writeCsr 0 w) s).cmd = w ∧
    csrRead (hostTurn (.writeCsr 0 w) s) 0 = w) ∧
  (∀ w : Reg32, opcField w = w.toNat % 16 ∧ dirField w = (w.toNat / 16 % 2 == 1) ∧
    twmField w = (w.toNat / 32 % 2 == 1) ∧ rsvField w = w.toNat / 64 % 4 ∧ lenOf w = w.toNat / 256) ∧
  ErrCode.ok.bits.toNat = 0 ∧ ErrCode.invalidLength.bits.toNat = 1 ∧ ErrCode.uninitializedTable.bits.toNat = 2 ∧
  ErrCode.illegalCommand.bits.toNat = 3 ∧
  (∀ (s : State) (k : Nat) (w : Reg32), k ≠ 0 → hostTurn (.writeCsr k w) s = { s with resp := some .err }) ∧
  (∀ s : State, s.busy = true → hostTurn (.read .csr 2) s = { s with resp := some .err }) ∧
  (∀ s : State, SafeState s →
    s.statusWord ∈ [0x00000000#32, 0x00000001#32, 0x00000002#32, 0x00000012#32, 0x00000022#32, 0x00000032#32]) ∧
  (∀ v ∈ [0x00000000#32, 0x00000001#32, 0x00000002#32, 0x00000012#32, 0x00000022#32, 0x00000032#32],
    ∃ s : State, SafeState s ∧ s.statusWord = v)

/-- 70_reset_and_hazards.md R216, whole: while `BUSY = 1` a transaction succeeds exactly when it reads STATUS or CAP; every
other gets Err and has no effect. -/
def Obligations.OnlyStatusAndCapWhileBusy : Prop :=
  ∀ (s : State) (x : Txn), s.busy = true →
    hostTurn x s =
      { s with
        resp := some (if x = .read .csr 1 then .reg s.statusWord
                      else if x = .read .csr 3 then .reg s.capWord else .err) }

/-- Acceptance (45_command_control.md R170): any word written to CMD while `BUSY = 0` is latched, sets BUSY, clears DONE and
ERR and makes `expand(w)` pending; nothing else changes. -/
def Obligations.AcceptanceLatchesAnyWord : Prop :=
  ∀ (s : State) (w : Reg32), s.busy = false →
    hostTurn (.writeCsr 0 w) s =
      { s with
        cmd := w, busy := true, done := false, err := 0, pend := expand s.cfg ⟨s.tblValid, s.tblSize.toNat⟩ w,
        resp := some .ok }

/-- What a step does for each event (the inbox is the model's choice, log 1, log 2). The host's transaction takes its effect,
a called word runs as one big step, reset takes place. The sequencer's turn (45_command_control.md R175, R177;
20_memory.md R51): the head of PEND leaves it and is performed; `FINISH` writes ERR, DONE and BUSY alone; with `BUSY = 0`
nothing happens. With an empty inbox a running command goes on (the model's choice, log 11, log 12). -/
def Obligations.StepTakesTheNextTurn : Prop :=
  (∀ (s : State) (x : Txn) (rest : List Event), s.inbox = .host x :: rest →
    step s = .next (hostTurn x { s with inbox := rest })) ∧
  (∀ (s : State) (w : Reg32) (rest : List Event), s.inbox = .call w :: rest →
    step s = command w (planWord s.cfg s.tag w) { s with inbox := rest }) ∧
  (∀ (s : State) (rest : List Event), s.inbox = .reset :: rest →
    step s = .next { s with inbox := rest : State }.resetNow) ∧
  (∀ (s : State) (op : MicroOp) (ops : List MicroOp) (rest : List Event), s.busy = true → s.pend = op :: ops →
    op.inRange s.cfg = true →
    (s.inbox = .seq :: rest → step s = .next (applyOp op { s with inbox := rest, pend := ops })) ∧
    (s.inbox = [] → step s = .next (applyOp op { s with pend := ops }))) ∧
  (∀ (s : State) (code : ErrCode),
    applyOp (.finish code) s = { s with err := code.bits, done := true, busy := false }) ∧
  (∀ (s : State) (rest : List Event), s.busy = false → s.inbox = .seq :: rest →
    step s = .next { s with inbox := rest }) ∧
  (∀ s : State, s.busy = false → s.inbox = [] → step s = .next s)

/-- The big step of a command is acceptance followed by the sequencer's steps (45_command_control.md R176, R177): for every
word, the called command's next state is what one CMD write and then `expand(w)`'s steps one at a time lead to. The events
are the model's form (log 1, log 2, log 11); that NaN bits and working registers agree too is the model's choice (log 7,
log 8). -/
def Obligations.BigStepIsTheSmallSteps : Prop :=
  ∀ (s t : State) (w : Reg32), s.busy = false → step { s with inbox := [.call w] } = .next t →
    Host.Core.run Sys2Proof.core (1 + (expand s.cfg s.tag w).length) { s with inbox := [.host (.writeCsr 0 w)] } = .next t

/-- Every running command completes (45_command_control.md R178): from every safe state with `BUSY = 1` and no event ahead, as
many steps as PEND is long lead to `DONE = 1`, `BUSY = 0`, PEND empty, CMD as it was. -/
def Obligations.RunningCommandCompletes : Prop :=
  ∀ s : State, SafeState s → s.busy = true → s.inbox = [] →
    ∃ t, Host.Core.run Sys2Proof.core s.pend.length s = .next t ∧ t.busy = false ∧ t.done = true ∧ t.pend = [] ∧
      t.cmd = s.cmd

/-- A step runs the decoded command: the called word's command is executed on the state with the event taken away; likewise
for the word the host's interface places. -/
def Obligations.StepRunsTheDecodedCommand : Prop :=
  (∀ (s : State) (w : Reg32) (i : Instr) (rest : List Event), s.inbox = .call w :: rest → decode w = .ok i →
    step s = exec i { s with inbox := rest }) ∧
  (∀ (s : State) (w : Nat) (i : Instr), decodeTableWord 32 w = some i →
    step (s.withFetchWord 32 w) = exec i { s with busy := false, pend := [] })

/-! ## Invariants and whole-machine rules -/

/-- 10_state.md R35, the control invariants, at reset, and the tables' invariant. -/
def Obligations.ResetIsSafe : Prop := SafeState State.reset ∧ TablesSettle State.reset

/-- Every step, whatever event it takes, keeps the invariants of 10_state.md R35 and the canonical form of the memories. -/
def Obligations.StepKeepsSafeState : Prop :=
  ∀ s t : State, SafeState s → step s = .next t → SafeState t

/-- From a safe state a step always gives a next state: no fault is ever reached (20_memory.md R47, 45_command_control.md
R178, 60_exceptions.md R190). -/
def Obligations.SafeStateNeverStops : Prop :=
  ∀ s : State, SafeState s → ∃ t, step s = .next t

/-- Whenever no command runs the tables hold what their tag says (10_state.md R23, R35 items 3 and 5): every step keeps it,
also step by step through a running INIT. -/
def Obligations.TablesSettleIsKept : Prop :=
  ∀ s t : State, SafeState s → TablesSettle s → step s = .next t → TablesSettle t

/-- Once `TBL_VALID = 1` it stays 1 until reset (10_state.md R31, R35 item 5). -/
def Obligations.TableTagStaysUntilReset : Prop :=
  ∀ s t : State, s.tblValid = true → s.inbox.head? ≠ some .reset → step s = .next t → t.tblValid = true

/-- Only INIT and reset change the tables or the tag (42_twiddle.md R125, 10_state.md R22): no other event does, SEQ does only
by TWSTORE and TSET, and only an INIT's expansion holds those. -/
def Obligations.OnlyInitWritesTheTables : Prop :=
  (∀ s t : State, step s = .next t → s.inbox.head? ≠ some .reset →
    (∀ w size, s.inbox.head? = some (.call w) → decode w ≠ .ok (.init size)) →
    (∀ d e, s.pend.head? ≠ some (.twstore d e)) → (∀ size, s.pend.head? ≠ some (.tset size)) →
    t.twtF = s.twtF ∧ t.twtI = s.twtI ∧ t.tblValid = s.tblValid ∧ t.tblSize = s.tblSize) ∧
  (∀ (c : Config) (tag : TableTag) (w : Reg32), (∀ size, decode w ≠ .ok (.init size)) →
    (∀ d e, .twstore d e ∉ expand c tag w) ∧ (∀ size, .tset size ∉ expand c tag w))

/-- 70_reset_and_hazards.md R211, whole: reset in any state sets the control state to zero and PEND to empty, CAP reads the
same before and after (`0x0000010C` at the default), and the block is then ready for a command. -/
def Obligations.ResetClearsControlState : Prop :=
  ∀ s : State,
    s.resetNow.busy = false ∧ s.resetNow.done = false ∧ s.resetNow.err = 0 ∧ s.resetNow.cmd = 0 ∧
    s.resetNow.tblValid = false ∧ s.resetNow.tblSize = 0 ∧ s.resetNow.pend = [] ∧
    s.resetNow.statusWord = 0x00000000#32 ∧ s.resetNow.twsizeWord = 0x00000000#32 ∧
    s.resetNow.capWord = s.capWord ∧ s.capWord = 0#16 ++ 1#8 ++ 0#3 ++ BitVec.ofNat 5 s.cfg.logn ∧
    (s.cfg = Config.default12 → s.resetNow.capWord = 0x0000010C#32) ∧
    ∀ w : Reg32, portErr (.writeCsr 0 w) s.resetNow = none

/-- The values a host reads right after reset (10_state.md R34, 95_test_vectors.md section 7). -/
def Obligations.ResetRegisterValues : Prop :=
  csrRead State.reset 0 = 0x00000000#32 ∧ csrRead State.reset 1 = 0x00000000#32 ∧
  csrRead State.reset 2 = 0x00000000#32 ∧ csrRead State.reset 3 = 0x0000010C#32 ∧ State.reset.pend = [] ∧
  State.reset.cfg.dmemWords = 8192 ∧ State.reset.cfg.twtEntries = 8191
end

