-- ==== Sys2Proof/Laws/Mem.lean ====
section
/-! SUPPORT. The laws of a memory: a read after a write, and the canonical form kept by every write. -/

namespace Sys2Proof.Machine

variable {α : Type}

/-- A read after a write to the same index gives the value written. -/
@[simp] theorem Mem.find_put_self (m : Mem α) (i : Nat) (v : α) : Mem.find (Mem.put m i v) i = some v := by
  induction m with
  | nil => simp [Mem.put, Mem.find]
  | cons p rest ih =>
    obtain ⟨k, u⟩ := p
    unfold Mem.put
    split
    · simp [Mem.find]
    · split
      · simp [Mem.find]
      · have hk : k ≠ i := fun h => by simp_all
        simp [Mem.find, hk, ih]

/-- A write leaves every other index alone. -/
theorem Mem.find_put_ne (m : Mem α) {i j : Nat} (h : j ≠ i) (v : α) : Mem.find (Mem.put m i v) j = Mem.find m j := by
  induction m with
  | nil => simp [Mem.put, Mem.find, Ne.symm h]
  | cons p rest ih =>
    obtain ⟨k, u⟩ := p
    unfold Mem.put
    split
    · simp [Mem.find, Ne.symm h]
    · split
      · next hik => subst hik; simp [Mem.find, Ne.symm h]
      · simp [Mem.find, ih]

/-- Both cases of a read after a write. -/
theorem Mem.find_put (m : Mem α) (i j : Nat) (v : α) :
    Mem.find (Mem.put m i v) j = if j = i then some v else Mem.find m j := by
  split
  · next h => subst h; simp
  · next h => exact Mem.find_put_ne m h v

/-- A write at an existing index keeps the canonical form from `lo` up. -/
theorem Mem.wfFrom_put {n lo i : Nat} {m : Mem α} (v : α) (hlo : lo ≤ i) (hi : i < n)
    (h : Mem.wfFrom n lo m = true) : Mem.wfFrom n lo (Mem.put m i v) = true := by
  induction m generalizing lo with
  | nil => simp [Mem.put, Mem.wfFrom, hlo, hi]
  | cons p rest ih =>
    obtain ⟨k, u⟩ := p
    simp only [Mem.wfFrom, Bool.and_eq_true, decide_eq_true_eq] at h
    obtain ⟨⟨h1, h2⟩, h3⟩ := h
    unfold Mem.put
    split
    · next hik => simp [Mem.wfFrom, hlo, hi, h2, h3, Nat.succ_le_of_lt hik]
    · split
      · next hik => subst hik; simp [Mem.wfFrom, hlo, hi, h3]
      · have hki : k + 1 ≤ i := by omega
        simp [Mem.wfFrom, h1, h2, ih hki h3]

/-- A write at an existing index keeps the canonical form. -/
theorem Mem.wf_put {n i : Nat} {m : Mem α} (v : α) (hi : i < n) (h : Mem.wf n m = true) :
    Mem.wf n (Mem.put m i v) = true := Mem.wfFrom_put v (Nat.zero_le i) hi h

/-- The empty memory is canonical. -/
@[simp] theorem Mem.wf_nil (n : Nat) : Mem.wf n ([] : Mem α) = true := rfl

end Sys2Proof.Machine
end

