-- ==== Sys2Proof/Laws/State.lean ====
section
/-! SUPPORT. One lemma per field per update of State, so that no proof unfolds a record update. -/

namespace Sys2Proof.Machine

section SetD
variable (s : State) (i : Nat) (v : Word)
@[simp] theorem State.setD_cfg : (s.setD i v).cfg = s.cfg := rfl
@[simp] theorem State.setD_dmem : (s.setD i v).dmem = Mem.put s.dmem i v := rfl
@[simp] theorem State.setD_twtF : (s.setD i v).twtF = s.twtF := rfl
@[simp] theorem State.setD_twtI : (s.setD i v).twtI = s.twtI := rfl
@[simp] theorem State.setD_tblValid : (s.setD i v).tblValid = s.tblValid := rfl
@[simp] theorem State.setD_tblSize : (s.setD i v).tblSize = s.tblSize := rfl
@[simp] theorem State.setD_busy : (s.setD i v).busy = s.busy := rfl
@[simp] theorem State.setD_done : (s.setD i v).done = s.done := rfl
@[simp] theorem State.setD_err : (s.setD i v).err = s.err := rfl
@[simp] theorem State.setD_cmd : (s.setD i v).cmd = s.cmd := rfl
@[simp] theorem State.setD_pend : (s.setD i v).pend = s.pend := rfl
@[simp] theorem State.setD_wr : (s.setD i v).wr = s.wr := rfl
@[simp] theorem State.setD_wi : (s.setD i v).wi = s.wi := rfl
@[simp] theorem State.setD_ct : (s.setD i v).ct = s.ct := rfl
@[simp] theorem State.setD_st : (s.setD i v).st = s.st := rfl
@[simp] theorem State.setD_draw : (s.setD i v).draw = s.draw := rfl
@[simp] theorem State.setD_epoch : (s.setD i v).epoch = s.epoch := rfl
@[simp] theorem State.setD_inbox : (s.setD i v).inbox = s.inbox := rfl
@[simp] theorem State.setD_resp : (s.setD i v).resp = s.resp := rfl
end SetD

section SetW
variable (s : State) (re im : Word)
@[simp] theorem State.setW_cfg : (s.setW re im).cfg = s.cfg := rfl
@[simp] theorem State.setW_dmem : (s.setW re im).dmem = s.dmem := rfl
@[simp] theorem State.setW_twtF : (s.setW re im).twtF = s.twtF := rfl
@[simp] theorem State.setW_twtI : (s.setW re im).twtI = s.twtI := rfl
@[simp] theorem State.setW_tblValid : (s.setW re im).tblValid = s.tblValid := rfl
@[simp] theorem State.setW_tblSize : (s.setW re im).tblSize = s.tblSize := rfl
@[simp] theorem State.setW_busy : (s.setW re im).busy = s.busy := rfl
@[simp] theorem State.setW_done : (s.setW re im).done = s.done := rfl
@[simp] theorem State.setW_err : (s.setW re im).err = s.err := rfl
@[simp] theorem State.setW_cmd : (s.setW re im).cmd = s.cmd := rfl
@[simp] theorem State.setW_pend : (s.setW re im).pend = s.pend := rfl
@[simp] theorem State.setW_wr : (s.setW re im).wr = re := rfl
@[simp] theorem State.setW_wi : (s.setW re im).wi = im := rfl
@[simp] theorem State.setW_ct : (s.setW re im).ct = s.ct := rfl
@[simp] theorem State.setW_st : (s.setW re im).st = s.st := rfl
@[simp] theorem State.setW_draw : (s.setW re im).draw = s.draw := rfl
@[simp] theorem State.setW_epoch : (s.setW re im).epoch = s.epoch := rfl
@[simp] theorem State.setW_inbox : (s.setW re im).inbox = s.inbox := rfl
@[simp] theorem State.setW_resp : (s.setW re im).resp = s.resp := rfl
end SetW

section SetAngle
variable (s : State) (c sn : Word)
@[simp] theorem State.setAngle_cfg : (s.setAngle c sn).cfg = s.cfg := rfl
@[simp] theorem State.setAngle_dmem : (s.setAngle c sn).dmem = s.dmem := rfl
@[simp] theorem State.setAngle_twtF : (s.setAngle c sn).twtF = s.twtF := rfl
@[simp] theorem State.setAngle_twtI : (s.setAngle c sn).twtI = s.twtI := rfl
@[simp] theorem State.setAngle_tblValid : (s.setAngle c sn).tblValid = s.tblValid := rfl
@[simp] theorem State.setAngle_tblSize : (s.setAngle c sn).tblSize = s.tblSize := rfl
@[simp] theorem State.setAngle_busy : (s.setAngle c sn).busy = s.busy := rfl
@[simp] theorem State.setAngle_done : (s.setAngle c sn).done = s.done := rfl
@[simp] theorem State.setAngle_err : (s.setAngle c sn).err = s.err := rfl
@[simp] theorem State.setAngle_cmd : (s.setAngle c sn).cmd = s.cmd := rfl
@[simp] theorem State.setAngle_pend : (s.setAngle c sn).pend = s.pend := rfl
@[simp] theorem State.setAngle_wr : (s.setAngle c sn).wr = s.wr := rfl
@[simp] theorem State.setAngle_wi : (s.setAngle c sn).wi = s.wi := rfl
@[simp] theorem State.setAngle_ct : (s.setAngle c sn).ct = c := rfl
@[simp] theorem State.setAngle_st : (s.setAngle c sn).st = sn := rfl
@[simp] theorem State.setAngle_draw : (s.setAngle c sn).draw = s.draw := rfl
@[simp] theorem State.setAngle_epoch : (s.setAngle c sn).epoch = s.epoch := rfl
@[simp] theorem State.setAngle_inbox : (s.setAngle c sn).inbox = s.inbox := rfl
@[simp] theorem State.setAngle_resp : (s.setAngle c sn).resp = s.resp := rfl
end SetAngle

section SetPend
variable (s : State) (ops : List MicroOp)
@[simp] theorem State.setPend_cfg : (s.setPend ops).cfg = s.cfg := rfl
@[simp] theorem State.setPend_dmem : (s.setPend ops).dmem = s.dmem := rfl
@[simp] theorem State.setPend_twtF : (s.setPend ops).twtF = s.twtF := rfl
@[simp] theorem State.setPend_twtI : (s.setPend ops).twtI = s.twtI := rfl
@[simp] theorem State.setPend_tblValid : (s.setPend ops).tblValid = s.tblValid := rfl
@[simp] theorem State.setPend_tblSize : (s.setPend ops).tblSize = s.tblSize := rfl
@[simp] theorem State.setPend_busy : (s.setPend ops).busy = s.busy := rfl
@[simp] theorem State.setPend_done : (s.setPend ops).done = s.done := rfl
@[simp] theorem State.setPend_err : (s.setPend ops).err = s.err := rfl
@[simp] theorem State.setPend_cmd : (s.setPend ops).cmd = s.cmd := rfl
@[simp] theorem State.setPend_pend : (s.setPend ops).pend = ops := rfl
@[simp] theorem State.setPend_wr : (s.setPend ops).wr = s.wr := rfl
@[simp] theorem State.setPend_wi : (s.setPend ops).wi = s.wi := rfl
@[simp] theorem State.setPend_ct : (s.setPend ops).ct = s.ct := rfl
@[simp] theorem State.setPend_st : (s.setPend ops).st = s.st := rfl
@[simp] theorem State.setPend_draw : (s.setPend ops).draw = s.draw := rfl
@[simp] theorem State.setPend_epoch : (s.setPend ops).epoch = s.epoch := rfl
@[simp] theorem State.setPend_inbox : (s.setPend ops).inbox = s.inbox := rfl
@[simp] theorem State.setPend_resp : (s.setPend ops).resp = s.resp := rfl
end SetPend

section SetInbox
variable (s : State) (events : List Event)
@[simp] theorem State.setInbox_cfg : (s.setInbox events).cfg = s.cfg := rfl
@[simp] theorem State.setInbox_dmem : (s.setInbox events).dmem = s.dmem := rfl
@[simp] theorem State.setInbox_twtF : (s.setInbox events).twtF = s.twtF := rfl
@[simp] theorem State.setInbox_twtI : (s.setInbox events).twtI = s.twtI := rfl
@[simp] theorem State.setInbox_tblValid : (s.setInbox events).tblValid = s.tblValid := rfl
@[simp] theorem State.setInbox_tblSize : (s.setInbox events).tblSize = s.tblSize := rfl
@[simp] theorem State.setInbox_busy : (s.setInbox events).busy = s.busy := rfl
@[simp] theorem State.setInbox_done : (s.setInbox events).done = s.done := rfl
@[simp] theorem State.setInbox_err : (s.setInbox events).err = s.err := rfl
@[simp] theorem State.setInbox_cmd : (s.setInbox events).cmd = s.cmd := rfl
@[simp] theorem State.setInbox_pend : (s.setInbox events).pend = s.pend := rfl
@[simp] theorem State.setInbox_wr : (s.setInbox events).wr = s.wr := rfl
@[simp] theorem State.setInbox_wi : (s.setInbox events).wi = s.wi := rfl
@[simp] theorem State.setInbox_ct : (s.setInbox events).ct = s.ct := rfl
@[simp] theorem State.setInbox_st : (s.setInbox events).st = s.st := rfl
@[simp] theorem State.setInbox_draw : (s.setInbox events).draw = s.draw := rfl
@[simp] theorem State.setInbox_epoch : (s.setInbox events).epoch = s.epoch := rfl
@[simp] theorem State.setInbox_inbox : (s.setInbox events).inbox = events := rfl
@[simp] theorem State.setInbox_resp : (s.setInbox events).resp = s.resp := rfl
end SetInbox
section SetTag
variable (s : State) (size : Nat)
@[simp] theorem State.setTag_cfg : (s.setTag size).cfg = s.cfg := rfl
@[simp] theorem State.setTag_dmem : (s.setTag size).dmem = s.dmem := rfl
@[simp] theorem State.setTag_twtF : (s.setTag size).twtF = s.twtF := rfl
@[simp] theorem State.setTag_twtI : (s.setTag size).twtI = s.twtI := rfl
@[simp] theorem State.setTag_tblValid : (s.setTag size).tblValid = true := rfl
@[simp] theorem State.setTag_tblSize : (s.setTag size).tblSize = BitVec.ofNat 24 size := rfl
@[simp] theorem State.setTag_busy : (s.setTag size).busy = s.busy := rfl
@[simp] theorem State.setTag_done : (s.setTag size).done = s.done := rfl
@[simp] theorem State.setTag_err : (s.setTag size).err = s.err := rfl
@[simp] theorem State.setTag_cmd : (s.setTag size).cmd = s.cmd := rfl
@[simp] theorem State.setTag_pend : (s.setTag size).pend = s.pend := rfl
@[simp] theorem State.setTag_wr : (s.setTag size).wr = s.wr := rfl
@[simp] theorem State.setTag_wi : (s.setTag size).wi = s.wi := rfl
@[simp] theorem State.setTag_ct : (s.setTag size).ct = s.ct := rfl
@[simp] theorem State.setTag_st : (s.setTag size).st = s.st := rfl
@[simp] theorem State.setTag_draw : (s.setTag size).draw = s.draw := rfl
@[simp] theorem State.setTag_epoch : (s.setTag size).epoch = s.epoch := rfl
@[simp] theorem State.setTag_inbox : (s.setTag size).inbox = s.inbox := rfl
@[simp] theorem State.setTag_resp : (s.setTag size).resp = s.resp := rfl
end SetTag

section UseDraws
variable (s : State) (n : Nat)
@[simp] theorem State.useDraws_cfg : (s.useDraws n).cfg = s.cfg := rfl
@[simp] theorem State.useDraws_dmem : (s.useDraws n).dmem = s.dmem := rfl
@[simp] theorem State.useDraws_twtF : (s.useDraws n).twtF = s.twtF := rfl
@[simp] theorem State.useDraws_twtI : (s.useDraws n).twtI = s.twtI := rfl
@[simp] theorem State.useDraws_tblValid : (s.useDraws n).tblValid = s.tblValid := rfl
@[simp] theorem State.useDraws_tblSize : (s.useDraws n).tblSize = s.tblSize := rfl
@[simp] theorem State.useDraws_busy : (s.useDraws n).busy = s.busy := rfl
@[simp] theorem State.useDraws_done : (s.useDraws n).done = s.done := rfl
@[simp] theorem State.useDraws_err : (s.useDraws n).err = s.err := rfl
@[simp] theorem State.useDraws_cmd : (s.useDraws n).cmd = s.cmd := rfl
@[simp] theorem State.useDraws_pend : (s.useDraws n).pend = s.pend := rfl
@[simp] theorem State.useDraws_wr : (s.useDraws n).wr = s.wr := rfl
@[simp] theorem State.useDraws_wi : (s.useDraws n).wi = s.wi := rfl
@[simp] theorem State.useDraws_ct : (s.useDraws n).ct = s.ct := rfl
@[simp] theorem State.useDraws_st : (s.useDraws n).st = s.st := rfl
@[simp] theorem State.useDraws_draw : (s.useDraws n).draw = s.draw + n := rfl
@[simp] theorem State.useDraws_epoch : (s.useDraws n).epoch = s.epoch := rfl
@[simp] theorem State.useDraws_inbox : (s.useDraws n).inbox = s.inbox := rfl
@[simp] theorem State.useDraws_resp : (s.useDraws n).resp = s.resp := rfl
end UseDraws

section Respond
variable (s : State) (r : Response)
@[simp] theorem State.respond_cfg : (s.respond r).cfg = s.cfg := rfl
@[simp] theorem State.respond_dmem : (s.respond r).dmem = s.dmem := rfl
@[simp] theorem State.respond_twtF : (s.respond r).twtF = s.twtF := rfl
@[simp] theorem State.respond_twtI : (s.respond r).twtI = s.twtI := rfl
@[simp] theorem State.respond_tblValid : (s.respond r).tblValid = s.tblValid := rfl
@[simp] theorem State.respond_tblSize : (s.respond r).tblSize = s.tblSize := rfl
@[simp] theorem State.respond_busy : (s.respond r).busy = s.busy := rfl
@[simp] theorem State.respond_done : (s.respond r).done = s.done := rfl
@[simp] theorem State.respond_err : (s.respond r).err = s.err := rfl
@[simp] theorem State.respond_cmd : (s.respond r).cmd = s.cmd := rfl
@[simp] theorem State.respond_pend : (s.respond r).pend = s.pend := rfl
@[simp] theorem State.respond_wr : (s.respond r).wr = s.wr := rfl
@[simp] theorem State.respond_wi : (s.respond r).wi = s.wi := rfl
@[simp] theorem State.respond_ct : (s.respond r).ct = s.ct := rfl
@[simp] theorem State.respond_st : (s.respond r).st = s.st := rfl
@[simp] theorem State.respond_draw : (s.respond r).draw = s.draw := rfl
@[simp] theorem State.respond_epoch : (s.respond r).epoch = s.epoch := rfl
@[simp] theorem State.respond_inbox : (s.respond r).inbox = s.inbox := rfl
@[simp] theorem State.respond_resp : (s.respond r).resp = some r := rfl
end Respond

section Accept
variable (s : State) (w : Reg32) (ops : List MicroOp)
@[simp] theorem State.accept_cfg : (s.accept w ops).cfg = s.cfg := rfl
@[simp] theorem State.accept_dmem : (s.accept w ops).dmem = s.dmem := rfl
@[simp] theorem State.accept_twtF : (s.accept w ops).twtF = s.twtF := rfl
@[simp] theorem State.accept_twtI : (s.accept w ops).twtI = s.twtI := rfl
@[simp] theorem State.accept_tblValid : (s.accept w ops).tblValid = s.tblValid := rfl
@[simp] theorem State.accept_tblSize : (s.accept w ops).tblSize = s.tblSize := rfl
@[simp] theorem State.accept_busy : (s.accept w ops).busy = true := rfl
@[simp] theorem State.accept_done : (s.accept w ops).done = false := rfl
@[simp] theorem State.accept_err : (s.accept w ops).err = 0 := rfl
@[simp] theorem State.accept_cmd : (s.accept w ops).cmd = w := rfl
@[simp] theorem State.accept_pend : (s.accept w ops).pend = ops := rfl
@[simp] theorem State.accept_wr : (s.accept w ops).wr = s.wr := rfl
@[simp] theorem State.accept_wi : (s.accept w ops).wi = s.wi := rfl
@[simp] theorem State.accept_ct : (s.accept w ops).ct = s.ct := rfl
@[simp] theorem State.accept_st : (s.accept w ops).st = s.st := rfl
@[simp] theorem State.accept_draw : (s.accept w ops).draw = s.draw := rfl
@[simp] theorem State.accept_epoch : (s.accept w ops).epoch = s.epoch := rfl
@[simp] theorem State.accept_inbox : (s.accept w ops).inbox = s.inbox := rfl
@[simp] theorem State.accept_resp : (s.accept w ops).resp = some .ok := rfl
end Accept

section Complete
variable (s : State) (code : ErrCode)
@[simp] theorem State.complete_cfg : (s.complete code).cfg = s.cfg := rfl
@[simp] theorem State.complete_dmem : (s.complete code).dmem = s.dmem := rfl
@[simp] theorem State.complete_twtF : (s.complete code).twtF = s.twtF := rfl
@[simp] theorem State.complete_twtI : (s.complete code).twtI = s.twtI := rfl
@[simp] theorem State.complete_tblValid : (s.complete code).tblValid = s.tblValid := rfl
@[simp] theorem State.complete_tblSize : (s.complete code).tblSize = s.tblSize := rfl
@[simp] theorem State.complete_busy : (s.complete code).busy = false := rfl
@[simp] theorem State.complete_done : (s.complete code).done = true := rfl
@[simp] theorem State.complete_err : (s.complete code).err = code.bits := rfl
@[simp] theorem State.complete_cmd : (s.complete code).cmd = s.cmd := rfl
@[simp] theorem State.complete_pend : (s.complete code).pend = s.pend := rfl
@[simp] theorem State.complete_wr : (s.complete code).wr = s.wr := rfl
@[simp] theorem State.complete_wi : (s.complete code).wi = s.wi := rfl
@[simp] theorem State.complete_ct : (s.complete code).ct = s.ct := rfl
@[simp] theorem State.complete_st : (s.complete code).st = s.st := rfl
@[simp] theorem State.complete_draw : (s.complete code).draw = s.draw := rfl
@[simp] theorem State.complete_epoch : (s.complete code).epoch = s.epoch := rfl
@[simp] theorem State.complete_inbox : (s.complete code).inbox = s.inbox := rfl
@[simp] theorem State.complete_resp : (s.complete code).resp = s.resp := rfl
end Complete

section ResetNow
variable (s : State)
@[simp] theorem State.resetNow_cfg : s.resetNow.cfg = s.cfg := rfl
@[simp] theorem State.resetNow_dmem : s.resetNow.dmem = [] := rfl
@[simp] theorem State.resetNow_twtF : s.resetNow.twtF = [] := rfl
@[simp] theorem State.resetNow_twtI : s.resetNow.twtI = [] := rfl
@[simp] theorem State.resetNow_tblValid : s.resetNow.tblValid = false := rfl
@[simp] theorem State.resetNow_tblSize : s.resetNow.tblSize = 0 := rfl
@[simp] theorem State.resetNow_busy : s.resetNow.busy = false := rfl
@[simp] theorem State.resetNow_done : s.resetNow.done = false := rfl
@[simp] theorem State.resetNow_err : s.resetNow.err = 0 := rfl
@[simp] theorem State.resetNow_cmd : s.resetNow.cmd = 0 := rfl
@[simp] theorem State.resetNow_pend : s.resetNow.pend = [] := rfl
@[simp] theorem State.resetNow_wr : s.resetNow.wr = Config.resetWork (s.epoch + 1) 0 := rfl
@[simp] theorem State.resetNow_wi : s.resetNow.wi = Config.resetWork (s.epoch + 1) 1 := rfl
@[simp] theorem State.resetNow_ct : s.resetNow.ct = Config.resetWork (s.epoch + 1) 2 := rfl
@[simp] theorem State.resetNow_st : s.resetNow.st = Config.resetWork (s.epoch + 1) 3 := rfl
@[simp] theorem State.resetNow_draw : s.resetNow.draw = s.draw := rfl
@[simp] theorem State.resetNow_epoch : s.resetNow.epoch = s.epoch + 1 := rfl
@[simp] theorem State.resetNow_inbox : s.resetNow.inbox = s.inbox := rfl
@[simp] theorem State.resetNow_resp : s.resetNow.resp = s.resp := rfl
end ResetNow

section SetT
variable (s : State) (d : Dir) (e : Nat) (p : Word × Word)
@[simp] theorem State.setT_cfg : (s.setT d e p).cfg = s.cfg := by cases d <;> rfl
@[simp] theorem State.setT_dmem : (s.setT d e p).dmem = s.dmem := by cases d <;> rfl
@[simp] theorem State.setT_tblValid : (s.setT d e p).tblValid = s.tblValid := by cases d <;> rfl
@[simp] theorem State.setT_tblSize : (s.setT d e p).tblSize = s.tblSize := by cases d <;> rfl
@[simp] theorem State.setT_busy : (s.setT d e p).busy = s.busy := by cases d <;> rfl
@[simp] theorem State.setT_done : (s.setT d e p).done = s.done := by cases d <;> rfl
@[simp] theorem State.setT_err : (s.setT d e p).err = s.err := by cases d <;> rfl
@[simp] theorem State.setT_cmd : (s.setT d e p).cmd = s.cmd := by cases d <;> rfl
@[simp] theorem State.setT_pend : (s.setT d e p).pend = s.pend := by cases d <;> rfl
@[simp] theorem State.setT_wr : (s.setT d e p).wr = s.wr := by cases d <;> rfl
@[simp] theorem State.setT_wi : (s.setT d e p).wi = s.wi := by cases d <;> rfl
@[simp] theorem State.setT_ct : (s.setT d e p).ct = s.ct := by cases d <;> rfl
@[simp] theorem State.setT_st : (s.setT d e p).st = s.st := by cases d <;> rfl
@[simp] theorem State.setT_draw : (s.setT d e p).draw = s.draw := by cases d <;> rfl
@[simp] theorem State.setT_epoch : (s.setT d e p).epoch = s.epoch := by cases d <;> rfl
@[simp] theorem State.setT_inbox : (s.setT d e p).inbox = s.inbox := by cases d <;> rfl
@[simp] theorem State.setT_resp : (s.setT d e p).resp = s.resp := by cases d <;> rfl
@[simp] theorem State.setT_forward_twtF : (s.setT .forward e p).twtF = Mem.put s.twtF e p := rfl
@[simp] theorem State.setT_forward_twtI : (s.setT .forward e p).twtI = s.twtI := rfl
@[simp] theorem State.setT_inverse_twtF : (s.setT .inverse e p).twtF = s.twtF := rfl
@[simp] theorem State.setT_inverse_twtI : (s.setT .inverse e p).twtI = Mem.put s.twtI e p := rfl
end SetT

end Sys2Proof.Machine
end

