-- ==== Sys2Proof/Laws/Ops.lean ====
section
/-! SUPPORT. The laws of the named operations: what reads of DMEM and of the tables give after each update, and that
every update keeps the memories canonical. -/

namespace Sys2Proof.Machine

variable (s : State)

/-- `D` reads DMEM and the reset draw, nothing else. -/
theorem State.D_congr {s t : State} (h1 : t.dmem = s.dmem) (h2 : t.epoch = s.epoch) (i : Nat) : t.D i = s.D i := by
  simp [State.D, h1, h2]

/-- `T` reads the tables and the reset draw, nothing else. -/
theorem State.T_congr {s t : State} (h1 : t.twtF = s.twtF) (h2 : t.twtI = s.twtI) (h3 : t.epoch = s.epoch)
    (d : Dir) (e : Nat) : t.T d e = s.T d e := by
  cases d <;> simp [State.T, h1, h2, h3]

@[simp] theorem State.D_setD_self (i : Nat) (v : Word) : (s.setD i v).D i = v := by simp [State.D]

theorem State.D_setD_ne {i j : Nat} (h : j ≠ i) (v : Word) : (s.setD i v).D j = s.D j := by
  simp [State.D, Mem.find_put_ne _ h]

theorem State.D_setD (i j : Nat) (v : Word) : (s.setD i v).D j = if j = i then v else s.D j := by
  split
  · next h => subst h; simp
  · next h => exact State.D_setD_ne s h v

@[simp] theorem State.D_setT (d : Dir) (e : Nat) (p : Word × Word) (j : Nat) : (s.setT d e p).D j = s.D j :=
  State.D_congr (by simp) (by simp) j
@[simp] theorem State.D_setW (re im : Word) (j : Nat) : (s.setW re im).D j = s.D j := rfl
@[simp] theorem State.D_setAngle (c sn : Word) (j : Nat) : (s.setAngle c sn).D j = s.D j := rfl
@[simp] theorem State.D_setTag (size j : Nat) : (s.setTag size).D j = s.D j := rfl
@[simp] theorem State.D_useDraws (n j : Nat) : (s.useDraws n).D j = s.D j := rfl
@[simp] theorem State.D_respond (r : Response) (j : Nat) : (s.respond r).D j = s.D j := rfl
@[simp] theorem State.D_accept (w : Reg32) (ops : List MicroOp) (j : Nat) : (s.accept w ops).D j = s.D j := rfl
@[simp] theorem State.D_complete (c : ErrCode) (j : Nat) : (s.complete c).D j = s.D j := rfl
@[simp] theorem State.D_setPend (ops : List MicroOp) (j : Nat) : (s.setPend ops).D j = s.D j := rfl
@[simp] theorem State.D_setInbox (es : List Event) (j : Nat) : (s.setInbox es).D j = s.D j := rfl

@[simp] theorem State.T_setT_self (d : Dir) (e : Nat) (p : Word × Word) : (s.setT d e p).T d e = p := by
  cases d <;> simp [State.T]

theorem State.T_setT_ne {d d' : Dir} {e e' : Nat} (h : d' ≠ d ∨ e' ≠ e) (p : Word × Word) :
    (s.setT d e p).T d' e' = s.T d' e' := by
  rcases h with h | h
  · cases d <;> cases d' <;> simp_all [State.T]
  · cases d <;> cases d' <;> simp [State.T, Mem.find_put_ne _ h]

@[simp] theorem State.T_setD (i : Nat) (v : Word) (d : Dir) (e : Nat) : (s.setD i v).T d e = s.T d e :=
  State.T_congr rfl rfl rfl d e
@[simp] theorem State.T_setW (re im : Word) (d : Dir) (e : Nat) : (s.setW re im).T d e = s.T d e :=
  State.T_congr rfl rfl rfl d e
@[simp] theorem State.T_setAngle (c sn : Word) (d : Dir) (e : Nat) : (s.setAngle c sn).T d e = s.T d e :=
  State.T_congr rfl rfl rfl d e
@[simp] theorem State.T_setTag (size : Nat) (d : Dir) (e : Nat) : (s.setTag size).T d e = s.T d e :=
  State.T_congr rfl rfl rfl d e
@[simp] theorem State.T_useDraws (n : Nat) (d : Dir) (e : Nat) : (s.useDraws n).T d e = s.T d e :=
  State.T_congr rfl rfl rfl d e
@[simp] theorem State.T_respond (r : Response) (d : Dir) (e : Nat) : (s.respond r).T d e = s.T d e :=
  State.T_congr rfl rfl rfl d e
@[simp] theorem State.T_accept (w : Reg32) (ops : List MicroOp) (d : Dir) (e : Nat) :
    (s.accept w ops).T d e = s.T d e := State.T_congr rfl rfl rfl d e
@[simp] theorem State.T_complete (c : ErrCode) (d : Dir) (e : Nat) : (s.complete c).T d e = s.T d e :=
  State.T_congr rfl rfl rfl d e
@[simp] theorem State.T_setPend (ops : List MicroOp) (d : Dir) (e : Nat) : (s.setPend ops).T d e = s.T d e :=
  State.T_congr rfl rfl rfl d e
@[simp] theorem State.T_setInbox (es : List Event) (d : Dir) (e : Nat) : (s.setInbox es).T d e = s.T d e :=
  State.T_congr rfl rfl rfl d e

/-- The canonical form is about the three memories and the parameter alone. -/
theorem State.memWf_congr {s t : State} (h0 : t.cfg = s.cfg) (h1 : t.dmem = s.dmem) (h2 : t.twtF = s.twtF)
    (h3 : t.twtI = s.twtI) : t.memWf = s.memWf := by simp [State.memWf, h0, h1, h2, h3]

theorem State.memWf_setD {s : State} (h : s.memWf = true) {i : Nat} (hi : i < s.cfg.dmemWords) (v : Word) :
    (s.setD i v).memWf = true := by
  simp only [State.memWf, Bool.and_eq_true] at h ⊢
  exact ⟨⟨Mem.wf_put v hi h.1.1, h.1.2⟩, h.2⟩

theorem State.memWf_setT {s : State} (h : s.memWf = true) (d : Dir) {e : Nat} (he : e < s.cfg.twtEntries)
    (p : Word × Word) : (s.setT d e p).memWf = true := by
  simp only [State.memWf, Bool.and_eq_true] at h ⊢
  cases d
  · exact ⟨⟨h.1.1, Mem.wf_put p he h.1.2⟩, h.2⟩
  · exact ⟨⟨h.1.1, h.1.2⟩, Mem.wf_put p he h.2⟩

@[simp] theorem State.memWf_setW (re im : Word) : (s.setW re im).memWf = s.memWf := rfl
@[simp] theorem State.memWf_setAngle (c sn : Word) : (s.setAngle c sn).memWf = s.memWf := rfl
@[simp] theorem State.memWf_setTag (size : Nat) : (s.setTag size).memWf = s.memWf := rfl
@[simp] theorem State.memWf_useDraws (n : Nat) : (s.useDraws n).memWf = s.memWf := rfl
@[simp] theorem State.memWf_respond (r : Response) : (s.respond r).memWf = s.memWf := rfl
@[simp] theorem State.memWf_accept (w : Reg32) (ops : List MicroOp) : (s.accept w ops).memWf = s.memWf := rfl
@[simp] theorem State.memWf_complete (c : ErrCode) : (s.complete c).memWf = s.memWf := rfl
@[simp] theorem State.memWf_setPend (ops : List MicroOp) : (s.setPend ops).memWf = s.memWf := rfl
@[simp] theorem State.memWf_setInbox (es : List Event) : (s.setInbox es).memWf = s.memWf := rfl
@[simp] theorem State.memWf_resetNow : s.resetNow.memWf = true := rfl
@[simp] theorem State.memWf_reset : State.reset.memWf = true := rfl

end Sys2Proof.Machine
end

