-- ==== Sys2Proof/Laws/Float.lean ====
section
/-! SUPPORT. The laws of the binary64 primitives: fields of a packed word, what a drawn NaN is, and that each operation
on words is the operation on values (so a proof about values never meets a draw). -/

namespace Sys2Proof.Machine

theorem roundBits_le (n sh : Nat) : roundBits n sh ≤ infBits := Nat.min_le_left _ _

/-- Bits 62:0 of a packed word. -/
theorem toNat_packWord {neg : Bool} {b : Nat} (h : b < 2 ^ 63) :
    (packWord neg b).toNat = (if neg then 2 ^ 63 else 0) + b := by
  unfold packWord
  rw [BitVec.toNat_append, BitVec.toNat_ofBool, BitVec.toNat_ofNat, Nat.mod_eq_of_lt h,
    ← Nat.shiftLeft_add_eq_or_of_lt h, Nat.shiftLeft_eq]
  cases neg <;> simp

theorem fracOf_eq (w : Word) : fracOf w = w.toNat % 2 ^ 52 := by
  simp [fracOf, BitVec.extractLsb'_toNat]

theorem expOf_eq (w : Word) : expOf w = w.toNat / 2 ^ 52 % 2 ^ 11 := by
  simp [expOf, BitVec.extractLsb'_toNat, Nat.shiftRight_eq_div_pow]

theorem signOf_eq (w : Word) : signOf w = decide (2 ^ 63 ≤ w.toNat) := by
  have h := w.isLt
  unfold signOf
  rw [← BitVec.testBit_toNat, Nat.testBit_eq_decide_div_mod_eq]
  apply decide_eq_decide.2
  omega

theorem fracOf_packWord {neg : Bool} {b : Nat} (h : b < 2 ^ 63) : fracOf (packWord neg b) = b % 2 ^ 52 := by
  rw [fracOf_eq, toNat_packWord h]; cases neg <;> simp; omega

theorem expOf_packWord {neg : Bool} {b : Nat} (h : b < 2 ^ 63) : expOf (packWord neg b) = b / 2 ^ 52 := by
  rw [expOf_eq, toNat_packWord h]; cases neg <;> simp <;> omega

theorem signOf_packWord {neg : Bool} {b : Nat} (h : b < 2 ^ 63) : signOf (packWord neg b) = neg := by
  rw [signOf_eq, toNat_packWord h]; cases neg <;> simp; omega

/-- A packed magnitude up to infinity is no NaN. -/
theorem isNaN_packWord {neg : Bool} {b : Nat} (h : b ≤ infBits) : isNaN (packWord neg b) = false := by
  have hb : b < 2 ^ 63 := by simp only [infBits] at h; omega
  simp only [infBits] at h
  simp only [isNaN, expOf_packWord hb, fracOf_packWord hb, Bool.and_eq_false_iff, beq_eq_false_iff_ne, bne_eq_false_iff_eq]
  omega

/-- A drawn NaN is a NaN (40_numerics.md R85). -/
@[simp] theorem isNaN_nanOf (q : Nat) : isNaN (nanOf q) = true := by
  unfold nanOf isNaN expOf fracOf
  generalize Config.nanChoice q = c
  simp only
  split
  · next h =>
    have h1 : (c ||| 0x7FF8000000000000#64).extractLsb' 52 11 = 2047#11 := by
      apply BitVec.eq_of_getLsbD_eq
      intro i hi
      have : i = 0 ∨ i = 1 ∨ i = 2 ∨ i = 3 ∨ i = 4 ∨ i = 5 ∨ i = 6 ∨ i = 7 ∨ i = 8 ∨ i = 9 ∨ i = 10 := by omega
      rcases this with h | h | h | h | h | h | h | h | h | h | h <;> subst h <;> simp
    have h2 : ((c ||| 0x7FF8000000000000#64).extractLsb' 0 52).getLsbD 51 = true := by simp
    rw [h1]
    simp only [BitVec.toNat_ofNat, Bool.and_eq_true, bne_iff_ne, ne_eq]
    refine ⟨rfl, fun h0 => ?_⟩
    have : (c ||| 0x7FF8000000000000#64).extractLsb' 0 52 = 0#52 := BitVec.eq_of_toNat_eq (by simpa using h0)
    rw [this] at h2
    simp at h2
  · next h =>
    have h1 : (c ||| 0x7FF0000000000000#64).extractLsb' 52 11 = 2047#11 := by
      apply BitVec.eq_of_getLsbD_eq
      intro i hi
      have : i = 0 ∨ i = 1 ∨ i = 2 ∨ i = 3 ∨ i = 4 ∨ i = 5 ∨ i = 6 ∨ i = 7 ∨ i = 8 ∨ i = 9 ∨ i = 10 := by omega
      rcases this with h | h | h | h | h | h | h | h | h | h | h <;> subst h <;> simp
    have h2 : (c ||| 0x7FF0000000000000#64).extractLsb' 0 52 = c.extractLsb' 0 52 := by
      apply BitVec.eq_of_getLsbD_eq
      intro i hi
      have hz : ∀ i < 52, (0x7FF0000000000000#64).getLsbD i = false := by decide
      simp [hi, hz i hi]
    rw [h1, h2]
    simp only [BitVec.toNat_ofNat, Bool.and_eq_true, bne_iff_ne, ne_eq]
    exact ⟨rfl, h⟩

/-- The sum of two numbers, where it is a number, is no NaN. -/
theorem isNaN_of_addNum {a b r : Word} (h : addNum a b = some r) : isNaN r = false := by
  unfold addNum at h
  split at h
  · cases h
  · next hn =>
    simp only [Bool.or_eq_true, not_or, Bool.not_eq_true] at hn
    split at h
    · split at h
      · cases h
      · injection h with h; rw [← h]; exact hn.1
    · split at h
      · injection h with h; rw [← h]; exact hn.2
      · injection h with h
        rw [← h]; exact isNaN_packWord (roundBits_le _ _)

/-- The product of two numbers, where it is a number, is no NaN. -/
theorem isNaN_of_mulNum {a b r : Word} (h : mulNum a b = some r) : isNaN r = false := by
  unfold mulNum at h
  split at h
  · cases h
  · split at h
    · split at h
      · cases h
      · injection h with h; rw [← h]; exact isNaN_packWord (Nat.le_refl _)
    · injection h with h
      rw [← h]; exact isNaN_packWord (roundBits_le _ _)

theorem addNum_of_nan {a b : Word} (h : isNaN a = true ∨ isNaN b = true) : addNum a b = none := by
  unfold addNum; rw [if_pos]; simpa using h

theorem mulNum_of_nan {a b : Word} (h : isNaN a = true ∨ isNaN b = true) : mulNum a b = none := by
  unfold mulNum; rw [if_pos]; simpa using h

theorem fpVal_of_nan {a : Word} (h : isNaN a = true) : fpVal a = none := by simp [fpVal, h]
theorem fpVal_of_num {a : Word} (h : isNaN a = false) : fpVal a = some a := by simp [fpVal, h]

/-- `fadd` on words is the sum of the values, whatever the draw (40_numerics.md R85). -/
@[simp] theorem fpVal_fadd (q : Nat) (a b : Word) : fpVal (fadd q a b) = FpVal.add (fpVal a) (fpVal b) := by
  cases ha : isNaN a
  · cases hb : isNaN b
    · rw [fpVal_of_num ha, fpVal_of_num hb]
      simp only [FpVal.add, Option.bind_some, fadd]
      cases hr : addNum a b with
      | none => exact fpVal_of_nan (isNaN_nanOf q)
      | some r => exact fpVal_of_num (isNaN_of_addNum hr)
    · rw [fpVal_of_nan hb, fadd, addNum_of_nan (.inr hb)]
      simp [FpVal.add, fpVal_of_nan]
  · rw [fpVal_of_nan ha, fadd, addNum_of_nan (.inl ha)]
    simp [FpVal.add, fpVal_of_nan]

/-- `fmul` on words is the product of the values, whatever the draw (40_numerics.md R85). -/
@[simp] theorem fpVal_fmul (q : Nat) (a b : Word) : fpVal (fmul q a b) = FpVal.mul (fpVal a) (fpVal b) := by
  cases ha : isNaN a
  · cases hb : isNaN b
    · rw [fpVal_of_num ha, fpVal_of_num hb]
      simp only [FpVal.mul, Option.bind_some, fmul]
      cases hr : mulNum a b with
      | none => exact fpVal_of_nan (isNaN_nanOf q)
      | some r => exact fpVal_of_num (isNaN_of_mulNum hr)
    · rw [fpVal_of_nan hb, fmul, mulNum_of_nan (.inr hb)]
      simp [FpVal.mul, fpVal_of_nan]
  · rw [fpVal_of_nan ha, fmul, mulNum_of_nan (.inl ha)]
    simp [FpVal.mul, fpVal_of_nan]

/-- `fneg` moves the sign bit alone. -/
theorem isNaN_fneg (a : Word) : isNaN (fneg a) = isNaN a := by
  have he : (fneg a).extractLsb' 52 11 = a.extractLsb' 52 11 := by
    apply BitVec.eq_of_getLsbD_eq
    intro i hi
    have hz : ∀ i < 11, (0x8000000000000000#64).getLsbD (52 + i) = false := by decide
    simp [fneg, hi, hz i hi]
  have hf : (fneg a).extractLsb' 0 52 = a.extractLsb' 0 52 := by
    apply BitVec.eq_of_getLsbD_eq
    intro i hi
    have hz : ∀ i < 52, (0x8000000000000000#64).getLsbD i = false := by decide
    simp [fneg, hi, hz i hi]
  simp [isNaN, expOf, fracOf, he, hf]

@[simp] theorem fpVal_fneg (a : Word) : fpVal (fneg a) = FpVal.neg (fpVal a) := by
  cases ha : isNaN a
  · rw [fpVal_of_num ha, fpVal_of_num (by rw [isNaN_fneg, ha])]; rfl
  · rw [fpVal_of_nan ha, fpVal_of_nan (by rw [isNaN_fneg, ha])]; rfl

/-- `fsub` on words is the difference of the values, whatever the draw. -/
@[simp] theorem fpVal_fsub (q : Nat) (a b : Word) : fpVal (fsub q a b) = FpVal.sub (fpVal a) (fpVal b) := by
  simp [fsub, FpVal.sub]

end Sys2Proof.Machine
end

