-- ==== Sys2Proof/Laws/MicroOps.lean ====
section
/-! SUPPORT. Once for each shared operation of the sequencer: everything it can do. -/

namespace Sys2Proof.Machine

/-- No micro-operation writes the parameter, the reset number, CMD, PEND, the inbox or the response. -/
theorem applyOp_frame (op : MicroOp) (s : State) :
    (applyOp op s).cfg = s.cfg ∧ (applyOp op s).epoch = s.epoch ∧ (applyOp op s).cmd = s.cmd ∧
      (applyOp op s).pend = s.pend ∧ (applyOp op s).inbox = s.inbox ∧ (applyOp op s).resp = s.resp := by
  cases op with
  | rdc d => cases d <;> simp [applyOp, rdc]
  | _ => simp [applyOp, swapc, twseed, twstep, twload, twstore, tset, bfly, scale, rpair]

@[simp] theorem applyOp_cfg (op : MicroOp) (s : State) : (applyOp op s).cfg = s.cfg := (applyOp_frame op s).1
@[simp] theorem applyOp_epoch (op : MicroOp) (s : State) : (applyOp op s).epoch = s.epoch := (applyOp_frame op s).2.1
@[simp] theorem applyOp_cmd (op : MicroOp) (s : State) : (applyOp op s).cmd = s.cmd := (applyOp_frame op s).2.2.1
@[simp] theorem applyOp_pend (op : MicroOp) (s : State) : (applyOp op s).pend = s.pend := (applyOp_frame op s).2.2.2.1
@[simp] theorem applyOp_inbox (op : MicroOp) (s : State) : (applyOp op s).inbox = s.inbox :=
  (applyOp_frame op s).2.2.2.2.1
@[simp] theorem applyOp_resp (op : MicroOp) (s : State) : (applyOp op s).resp = s.resp := (applyOp_frame op s).2.2.2.2.2

/-- A micro-operation whose indices exist keeps the memories canonical. -/
theorem memWf_applyOp {op : MicroOp} {s : State} (hr : op.inRange s.cfg = true) (h : s.memWf = true) :
    (applyOp op s).memWf = true := by
  cases op with
  | swapc a b =>
    simp only [MicroOp.inRange, Bool.and_eq_true, decide_eq_true_eq] at hr
    exact State.memWf_setD (State.memWf_setD (State.memWf_setD (State.memWf_setD h (by omega) _)
      (by simpa using hr.1) _) (by simp; omega) _) (by simpa using hr.2) _
  | twseed row d => exact h
  | twstep => exact h
  | twload d e => exact h
  | twstore d e =>
    simp only [MicroOp.inRange, decide_eq_true_eq] at hr
    exact State.memWf_setT h d hr _
  | tset size => exact h
  | bfly k j =>
    simp only [MicroOp.inRange, Bool.and_eq_true, decide_eq_true_eq] at hr
    exact State.memWf_setD (State.memWf_setD (State.memWf_setD (State.memWf_setD h (by omega) _)
      (by simpa using hr.2) _) (by simp; omega) _) (by simpa using hr.1) _
  | scale i r =>
    simp only [MicroOp.inRange, decide_eq_true_eq] at hr
    exact State.memWf_setD h hr _
  | rpair j d n =>
    simp only [MicroOp.inRange, Bool.and_eq_true, decide_eq_true_eq] at hr
    exact State.memWf_setD (State.memWf_setD (State.memWf_setD (State.memWf_setD h (by omega) _)
      (by simpa using hr.1) _) (by simp; omega) _) (by simpa using hr.2) _
  | rdc d =>
    simp only [MicroOp.inRange, decide_eq_true_eq] at hr
    cases d
    · exact State.memWf_setD (State.memWf_setD h (by omega) _) (by simpa using hr) _
    · exact State.memWf_setD (State.memWf_setD h (by omega) _) (by simpa using hr) _
  | finish code => exact h

@[simp] theorem effects_nil (s : State) : effects [] s = s := rfl
@[simp] theorem effects_cons (op : MicroOp) (ops : List MicroOp) (s : State) :
    effects (op :: ops) s = effects ops (applyOp op s) := rfl
theorem effects_append (xs ys : List MicroOp) (s : State) : effects (xs ++ ys) s = effects ys (effects xs s) := by
  simp [effects, List.foldl_append]

/-- What a list of micro-operations never writes. -/
theorem effects_frame (ops : List MicroOp) (s : State) :
    (effects ops s).cfg = s.cfg ∧ (effects ops s).epoch = s.epoch ∧ (effects ops s).cmd = s.cmd ∧
      (effects ops s).pend = s.pend ∧ (effects ops s).inbox = s.inbox ∧ (effects ops s).resp = s.resp := by
  induction ops generalizing s with
  | nil => simp
  | cons op ops ih => simpa using ih (applyOp op s)

@[simp] theorem effects_cfg (ops : List MicroOp) (s : State) : (effects ops s).cfg = s.cfg := (effects_frame ops s).1

/-- A list whose indices exist keeps the memories canonical. -/
theorem memWf_effects {ops : List MicroOp} {s : State} (hr : ∀ op ∈ ops, op.inRange s.cfg = true)
    (h : s.memWf = true) : (effects ops s).memWf = true := by
  induction ops generalizing s with
  | nil => exact h
  | cons op ops ih =>
    refine ih (fun o ho => ?_) (memWf_applyOp (hr op (by simp)) h)
    simpa using hr o (by simp [ho])

/-- Performing one micro-operation gives its effect exactly when its indices exist; else it is a fault. -/
theorem perform_eq (op : MicroOp) (s : State) :
    perform op s = if op.inRange s.cfg = true then .ok (applyOp op s) else .error .microOpIndex := rfl

/-- Performing a list gives all its effects exactly when all its indices exist; else it is a fault. -/
theorem performAll_eq (ops : List MicroOp) (s : State) :
    performAll ops s =
      if ∀ op ∈ ops, op.inRange s.cfg = true then .ok (effects ops s) else .error .microOpIndex := by
  simp [performAll, List.all_eq_true]

/-- The sequencer step with a pending head. -/
theorem seqStep_cons {s : State} {op : MicroOp} {rest : List MicroOp} (hb : s.busy = true) (hp : s.pend = op :: rest) :
    seqStep s = perform op (s.setPend rest) := by simp [seqStep, hb, hp]

/-- While `BUSY = 0` SEQ does nothing. -/
theorem seqStep_idle {s : State} (hb : s.busy = false) : seqStep s = .ok s := by simp [seqStep, hb]

/-- Everything the sequencer step can do. -/
theorem seqStep_cases {s t : State} (h : seqStep s = .ok t) :
    (s.busy = false ∧ t = s) ∨
      ∃ op rest, s.busy = true ∧ s.pend = op :: rest ∧ op.inRange s.cfg = true ∧
        t = applyOp op (s.setPend rest) := by
  cases hb : s.busy with
  | false => rw [seqStep_idle hb] at h; exact .inl ⟨rfl, by simpa using h.symm⟩
  | true =>
    cases hp : s.pend with
    | nil => simp [seqStep, hb, hp] at h
    | cons op rest =>
      rw [seqStep_cons hb hp, perform_eq] at h
      split at h
      · next hr => exact .inr ⟨op, rest, rfl, rfl, hr, by simpa using h.symm⟩
      · cases h

/-- A command while `BUSY = 1` is refused. -/
theorem command_busy {w : Reg32} {p : Plan} {s : State} (hb : s.busy = true) :
    command w p s = .next (s.respond .err) := by simp [command, hb]

/-- A command from `BUSY = 0` whose indices exist: all effects on the accepted state, and nothing pending. -/
theorem command_idle {w : Reg32} {p : Plan} {s : State} (hb : s.busy = false)
    (hr : ∀ op ∈ p.ops, op.inRange s.cfg = true) :
    command w p s =
      .next (((effects p.ops (s.accept w p.expand)).complete p.code).setPend []) := by
  have hall : ∀ op ∈ p.expand, op.inRange (s.accept w p.expand).cfg = true := by
    intro op hop
    simp only [Plan.expand, List.mem_append, List.mem_singleton] at hop
    rcases hop with hop | rfl
    · simpa using hr op hop
    · rfl
  unfold command
  rw [if_neg (by simp [hb]), performAll_eq, if_pos hall]
  simp only [toOutcome, Except.map, Plan.expand, effects_append, effects_cons, effects_nil, applyOp]

/-- Everything a command can do if it gives a next state. -/
theorem command_cases {w : Reg32} {p : Plan} {s t : State} (h : command w p s = .next t) :
    (s.busy = true ∧ t = s.respond .err) ∨
      (s.busy = false ∧ (∀ op ∈ p.ops, op.inRange s.cfg = true) ∧
        t = (((effects p.ops (s.accept w p.expand)).complete p.code).setPend [])) := by
  cases hb : s.busy with
  | true => rw [command_busy hb] at h; exact .inl ⟨rfl, by injection h with h; exact h.symm⟩
  | false =>
    refine .inr ⟨rfl, ?_⟩
    by_cases hr : ∀ op ∈ p.ops, op.inRange s.cfg = true
    · rw [command_idle hb hr] at h
      exact ⟨hr, by injection h with h; exact h.symm⟩
    · exfalso
      unfold command at h
      rw [if_neg (by simp [hb]), performAll_eq, if_neg] at h
      · simp [toOutcome, Except.map] at h
      · intro hall
        exact hr fun op hop => by simpa using hall op (by simp [Plan.expand, hop])

/-- A failing plan needs no index. -/
theorem command_fail {w : Reg32} {c : ErrCode} {s : State} (hb : s.busy = false) :
    command w (Plan.fail c) s = .next (((s.accept w [.finish c]).complete c).setPend []) :=
  command_idle hb (by simp [Plan.fail])

end Sys2Proof.Machine
end

