-- ==== Sys2Proof/Laws/Operands.lean ====
section
/-! SUPPORT. What the checks on the operand say: the admitted lengths and sizes as powers of two. -/

namespace Sys2Proof.Machine

@[simp] theorem log2_two_pow (n : Nat) : log2 (2 ^ n) = n := by simp [log2]

/-- `pow2` is the power-of-two test. -/
theorem pow2_iff {v : Nat} : pow2 v = true ↔ ∃ n, v = 2 ^ n := by
  unfold pow2
  rw [Bool.and_eq_true, bne_iff_ne, beq_iff_eq]
  constructor
  · rintro ⟨h0, h1⟩
    exact (Nat.and_sub_one_eq_zero_iff_isPowerOfTwo h0).1 h1
  · rintro ⟨n, rfl⟩
    exact ⟨by positivity, (Nat.and_sub_one_eq_zero_iff_isPowerOfTwo (by positivity)).2 ⟨n, rfl⟩⟩

theorem pow2_two_pow (n : Nat) : pow2 (2 ^ n) = true := pow2_iff.2 ⟨n, rfl⟩

/-- The admitted lengths are `2 * 2^n`, `n <= LOGN_MAX`. -/
theorem lenOk_iff {c : Config} {len : Nat} : lenOk c len = true ↔ ∃ n, n ≤ c.logn ∧ len = 2 * 2 ^ n := by
  simp only [lenOk, Bool.and_eq_true, beq_iff_eq, decide_eq_true_eq, pow2_iff]
  simp only [Config.dmemWords, Config.nmax]
  constructor
  · rintro ⟨⟨h1, n, h2⟩, h3⟩
    refine ⟨n, ?_, by omega⟩
    have : 2 ^ n ≤ 2 ^ c.logn := by omega
    exact (Nat.pow_le_pow_iff_right (by omega)).1 this
  · rintro ⟨n, hn, rfl⟩
    have := Nat.pow_le_pow_right (n := 2) (by omega) hn
    exact ⟨⟨by omega, n, by omega⟩, by omega⟩

/-- The admitted sizes are `2^n`, `n <= LOGN_MAX + 1`. -/
theorem sizeOk_iff {c : Config} {size : Nat} : sizeOk c size = true ↔ ∃ n, n ≤ c.logn + 1 ∧ size = 2 ^ n := by
  simp only [sizeOk, Bool.and_eq_true, decide_eq_true_eq, pow2_iff]
  simp only [Config.nmax]
  constructor
  · rintro ⟨⟨n, rfl⟩, h⟩
    refine ⟨n, ?_, rfl⟩
    have : 2 ^ n ≤ 2 ^ (c.logn + 1) := by rw [Nat.pow_succ]; omega
    exact (Nat.pow_le_pow_iff_right (by omega)).1 this
  · rintro ⟨n, hn, rfl⟩
    have := Nat.pow_le_pow_right (n := 2) (by omega) hn
    rw [Nat.pow_succ] at this
    exact ⟨⟨n, rfl⟩, by omega⟩

/-- The parameter is in its range (00_scope.md R6). -/
theorem Config.logn_range (c : Config) : 1 ≤ c.logn ∧ c.logn ≤ 22 := by
  have := c.lognLess1.isLt
  simp only [Config.logn]; omega

end Sys2Proof.Machine
end

