-- ==== Sys2Proof/Laws/PerInstr.lean ====
section
/-! SUPPORT. One lemma per constructor of Instr: the encoding of a command matches the row of the opcode map that
30_encoding.md R66 gives it. -/

namespace Sys2Proof.Laws.RowMatch

/-- The encoded word of `i` matches the row of `i`. -/
def Statement (i : Instr) : Prop := i.row.matches (encode i) = true

/-- The low byte of an encoded word is the row's, whatever the operand. -/
theorem masked (l : BitVec 24) (b : BitVec 8) : (l ++ b) &&& 0x000000FF#32 = 0#24 ++ b := by
  apply BitVec.eq_of_getLsbD_eq
  intro k hk
  have hm : ∀ k < 32, (0x000000FF#32).getLsbD k = decide (k < 8) := by decide
  have hkk : k < 32 := hk
  rw [BitVec.getLsbD_and, BitVec.getLsbD_append, BitVec.getLsbD_append, hm k hkk]
  by_cases h : k < 8 <;> simp [h]

/-- A row that fixes the low byte alone is matched as soon as its value is that byte. -/
theorem of_masked {i : Instr} (hm : i.row.mask = 0x000000FF#32) (hv : i.row.value = 0#24 ++ i.lowByte) :
    Statement i := by
  simp only [Statement, OpcodeRow.matches, beq_iff_eq, hm, hv]
  exact masked _ _

theorem nop : Statement .nop := by unfold Statement; decide
theorem init (size : Nat) : Statement (.init size) := of_masked rfl (by simp only [Instr.row, Instr.lowByte]; decide)
theorem permute (len : Nat) : Statement (.permute len) := of_masked rfl (by simp only [Instr.row, Instr.lowByte]; decide)
theorem xformFR (len : Nat) : Statement (.xformFR len) := of_masked rfl (by simp only [Instr.row, Instr.lowByte]; decide)
theorem xformIR (len : Nat) : Statement (.xformIR len) := of_masked rfl (by simp only [Instr.row, Instr.lowByte]; decide)
theorem xformFT (len : Nat) : Statement (.xformFT len) := of_masked rfl (by simp only [Instr.row, Instr.lowByte]; decide)
theorem xformIT (len : Nat) : Statement (.xformIT len) := of_masked rfl (by simp only [Instr.row, Instr.lowByte]; decide)
theorem rxformFR (len : Nat) : Statement (.rxformFR len) := of_masked rfl (by simp only [Instr.row, Instr.lowByte]; decide)
theorem rxformIR (len : Nat) : Statement (.rxformIR len) := of_masked rfl (by simp only [Instr.row, Instr.lowByte]; decide)
theorem rxformFT (len : Nat) : Statement (.rxformFT len) := of_masked rfl (by simp only [Instr.row, Instr.lowByte]; decide)
theorem rxformIT (len : Nat) : Statement (.rxformIT len) := of_masked rfl (by simp only [Instr.row, Instr.lowByte]; decide)

end Sys2Proof.Laws.RowMatch
end

