-- ==== Sys2Proof/Laws/Step.lean ====
section
/-! SUPPORT. Everything a transaction, a fetch and a step can do, once. -/

namespace Sys2Proof.Machine

/-- The next turn with an event at the head of the inbox. -/
theorem fetch_cons {s : State} {e : Event} {rest : List Event} (h : s.inbox = e :: rest) :
    fetch s = (e.turn, s.setInbox rest) := by simp [fetch, h]

/-- The next turn with the inbox empty. -/
theorem fetch_nil {s : State} (h : s.inbox = []) : fetch s = (if s.busy then .seq else .idle, s) := by
  simp [fetch, h]

/-- A transaction that is refused. -/
theorem hostTurn_refused {t : Txn} {s : State} {e : PortErr} (h : portErr t s = some e) :
    hostTurn t s = s.respond .err := by simp [hostTurn, h]

/-- Everything a transaction can do. -/
theorem hostTurn_cases (t : Txn) (s : State) :
    hostTurn t s = s.respond .err ∨
      (∃ sp i, t = .read sp i ∧ hostTurn t s = s.respond (portRead s sp i)) ∨
      (∃ w, t = .writeCsr 0 w ∧ s.busy = false ∧ hostTurn t s = s.accept w (expand s.cfg s.tag w)) ∨
      (∃ i v, t = .writeDmem i v ∧ i < s.cfg.dmemWords ∧ s.busy = false ∧
        hostTurn t s = (s.setD i v).respond .ok) := by
  cases hp : portErr t s with
  | some e => exact .inl (hostTurn_refused hp)
  | none =>
    refine .inr ?_
    cases t with
    | read sp i => exact .inl ⟨sp, i, rfl, by simp [hostTurn, hp]⟩
    | writeCsr i w =>
      cases i with
      | zero =>
        refine .inr (.inl ⟨w, rfl, ?_, by simp [hostTurn, hp]⟩)
        cases hb : s.busy with
        | false => rfl
        | true => simp [portErr, hb, Txn.allowedBusy, Txn.target, spaceSize] at hp
      | succ i =>
        simp only [portErr, Txn.writesReadOnly] at hp
        split at hp
        · cases hp
        · split at hp <;> simp at hp
    | writeDmem i v =>
      refine .inr (.inr ⟨i, v, rfl, ?_, ?_, by simp [hostTurn, hp]⟩)
      · by_contra hlt
        simp [portErr, Txn.target, spaceSize, Nat.not_lt.1 hlt] at hp
      · cases hb : s.busy with
        | false => rfl
        | true =>
          simp only [portErr, hb, Txn.allowedBusy] at hp
          split at hp <;> simp at hp
    | writeTwt i v =>
      simp only [portErr, Txn.writesReadOnly] at hp
      split at hp
      · cases hp
      · split at hp <;> simp at hp

/-- The meaning of a command is the big step of its plan. -/
theorem exec_eq (i : Instr) (s : State) : exec i s = command (encode i) (planOf s.cfg s.tag i) s := by
  cases i <;> rfl

/-- Everything a step can do. -/
theorem step_cases {s t : State} (h : step s = .next t) :
    (∃ i u, fetch s = (.command i, u) ∧ exec i u = .next t) ∨
      (∃ w u, fetch s = (.illegal w, u) ∧ execIllegal w u = .next t) ∨
      (∃ x u, fetch s = (.port x, u) ∧ t = hostTurn x u) ∨
      (∃ u, fetch s = (.seq, u) ∧ seqStep u = .ok t) ∨
      (∃ u, fetch s = (.reset, u) ∧ t = u.resetNow) ∨
      (∃ u, fetch s = (.idle, u) ∧ t = u) := by
  unfold step at h
  split at h
  · next i u hf => exact .inl ⟨i, u, hf, h⟩
  · next w u hf => exact .inr (.inl ⟨w, u, hf, h⟩)
  · next x u hf => exact .inr (.inr (.inl ⟨x, u, hf, by injection h with h; exact h.symm⟩))
  · next u hf =>
    refine .inr (.inr (.inr (.inl ⟨u, hf, ?_⟩)))
    cases hs : seqStep u with
    | ok v => rw [hs] at h; injection h with h; rw [h]
    | error f => rw [hs] at h; cases h
  · next u hf => exact .inr (.inr (.inr (.inr (.inl ⟨u, hf, by injection h with h; exact h.symm⟩))))
  · next u hf => exact .inr (.inr (.inr (.inr (.inr ⟨u, hf, by injection h with h; exact h.symm⟩))))

end Sys2Proof.Machine
end

