-- ==== Sys2Proof/Tests/Slice0.lean ====
section
/-! SUPPORT. The model's own tests. Every expected value is copied from the spec (95_test_vectors.md, by section, unless
another place is named) and none from a run of the model; then, for each statement with hypotheses, a witness that meets
them. -/

namespace Sys2Proof.Tests

open Sys2Proof.Machine

/-! ## Helpers -/

/-- The reset state with DMEM words from 0 up written by the host. -/
def loaded (ws : List Word) : State := { State.reset with dmem := ws.zipIdx.map fun p => (p.2, p.1) }

/-- The first `n` DMEM words of a next state. -/
def wordsOf (o : Host.Outcome State Fault Refusal) (n : Nat) : Option (List Word) :=
  match o with
  | .next t => some ((List.range n).map t.D)
  | .fault _ => none
  | .refused _ => none

/-- STATUS, TWSIZE and CMD of a next state. -/
def regsOf (o : Host.Outcome State Fault Refusal) : Option (Reg32 × Reg32 × Reg32) :=
  match o with
  | .next t => some (t.statusWord, t.twsizeWord, t.cmd)
  | .fault _ => none
  | .refused _ => none

/-- An entry of both tables of a next state. -/
def entryOf (o : Host.Outcome State Fault Refusal) (e : Nat) : Option ((Word × Word) × (Word × Word)) :=
  match o with
  | .next t => some (t.T .forward e, t.T .inverse e)
  | .fault _ => none
  | .refused _ => none

/-- One command after another. -/
def andThen (o : Host.Outcome State Fault Refusal) (i : Instr) : Host.Outcome State Fault Refusal :=
  match o with
  | .next t => exec i t
  | .fault f => .fault f
  | .refused r => .refused r

/-- The first `n` DMEM words after one micro-operation. -/
def opWords (op : MicroOp) (s : State) (n : Nat) : List Word := (List.range n).map (applyOp op s).D

/-- `1, 2, .., 8`. -/
def ramp8 : List Word :=
  [0x3FF0000000000000#64, 0x4000000000000000#64, 0x4008000000000000#64, 0x4010000000000000#64,
   0x4014000000000000#64, 0x4018000000000000#64, 0x401C000000000000#64, 0x4020000000000000#64]

/-- `[16, 20, +0, -8, -4, -4, -8, +0]` (5.5). -/
def ramp8Forward : List Word :=
  [0x4030000000000000#64, 0x4034000000000000#64, 0x0000000000000000#64, 0xC020000000000000#64,
   0xC010000000000000#64, 0xC010000000000000#64, 0xC020000000000000#64, 0x0000000000000000#64]

/-- The packed spectrum of `1 .. 8` (6.1). -/
def ramp8Real : List Word :=
  [0x4042000000000000#64, 0xC010000000000000#64, 0xC010000000000000#64, 0xC023504F333F9DE6#64,
   0xC010000000000000#64, 0xC010000000000000#64, 0xC010000000000000#64, 0xBFFA827999FCEF34#64]

/-- The ramp with the working registers at `(re, im)`. -/
def withW (ws : List Word) (re im : Word) : State := (loaded ws).setW re im

/-! ## Well-formedness: a term of each constructor that no word stands for (30_encoding.md R61: LEN has 24 bits) -/

theorem test_wellFormed_nop : Instr.wellFormed .nop = true := by decide
theorem test_illFormed_init : Instr.wellFormed (.init 16777216) = false := by decide
theorem test_illFormed_permute : Instr.wellFormed (.permute 16777216) = false := by decide
theorem test_illFormed_xformFR : Instr.wellFormed (.xformFR 16777216) = false := by decide
theorem test_illFormed_xformIR : Instr.wellFormed (.xformIR 16777216) = false := by decide
theorem test_illFormed_xformFT : Instr.wellFormed (.xformFT 16777216) = false := by decide
theorem test_illFormed_xformIT : Instr.wellFormed (.xformIT 16777216) = false := by decide
theorem test_illFormed_rxformFR : Instr.wellFormed (.rxformFR 16777216) = false := by decide
theorem test_illFormed_rxformIR : Instr.wellFormed (.rxformIR 16777216) = false := by decide
theorem test_illFormed_rxformFT : Instr.wellFormed (.rxformFT 16777216) = false := by decide
theorem test_illFormed_rxformIT : Instr.wellFormed (.rxformIT 16777216) = false := by decide

/-! ## Decoding: words of section 2, bit by bit `LEN(24) RSV(2) TWM(1) DIR(1) OPC(4)` -/

theorem test_decode_nop : decode 0b00000000000000000000000000000000#32 = .ok .nop := by decide
theorem test_decode_init : decode 0b00000000000000000000100000000001#32 = .ok (.init 8) := by decide
theorem test_decode_permute : decode 0b00000000000000000001000000000010#32 = .ok (.permute 16) := by decide
theorem test_decode_xformFR : decode 0b00000000001000000000000000000011#32 = .ok (.xformFR 8192) := by decide
theorem test_decode_xformIR : decode 0b00000000000000000000100000010011#32 = .ok (.xformIR 8) := by decide
theorem test_decode_xformFT : decode 0b00000000000000000001000000100011#32 = .ok (.xformFT 16) := by decide
theorem test_decode_xformIT : decode 0b00000000000000000001000000110011#32 = .ok (.xformIT 16) := by decide
theorem test_decode_rxformFR : decode 0b00000000000000000000001000000100#32 = .ok (.rxformFR 2) := by decide
theorem test_decode_rxformIR : decode 0b00000000000000000000100000010100#32 = .ok (.rxformIR 8) := by decide
theorem test_decode_rxformFT : decode 0b00000000000000000001000000100100#32 = .ok (.rxformFT 16) := by decide
theorem test_decode_rxformIT : decode 0b00000000000000000001000000110100#32 = .ok (.rxformIT 16) := by decide

/-- A length that the command does not admit is still decoded (section 2: `XFORM.F.R 16384`, `XFORM.F.R 6`). -/
theorem test_decode_inadmissible :
    decode 0x00400003#32 = .ok (.xformFR 16384) ∧ decode 0x00000603#32 = .ok (.xformFR 6) := by decide

/-- The illegal words of 5.8, each under its reason. -/
theorem test_decode_illegal :
    decode 0x00000005#32 = .error .reservedOpcode ∧ decode 0x0000000F#32 = .error .reservedOpcode ∧
    decode 0x00000843#32 = .error .reservedBits ∧ decode 0x00000663#32 = .error .reservedBits ∧
    decode 0x00000010#32 = .error .nopArgument ∧ decode 0x00000100#32 = .error .nopArgument ∧
    decode 0x00000821#32 = .error .initMode ∧ decode 0x00000812#32 = .error .permuteMode := by decide

theorem test_encode : encode (.init 8192) = 0x00200001#32 ∧ encode (.xformIT 16) = 0x00001033#32 := by decide

theorem test_decodeTableWord :
    decodeTableWord 32 0x1034 = some (.rxformIT 16) ∧ decodeTableWord 32 0x43 = none := by decide

/-! ## Arithmetic: 40_numerics.md, 5.2 -/

/-- 5.2: results below the normal range round to nearest even. -/
theorem test_scale_rounding :
    mulNum 0x4008000000000000#64 (pow2Neg 12) = some 0x3F48000000000000#64 ∧
    mulNum 0x0000000000000001#64 (pow2Neg 1) = some 0x0000000000000000#64 ∧
    mulNum 0x0000000000000003#64 (pow2Neg 1) = some 0x0000000000000002#64 ∧
    mulNum 0x0000000000000005#64 (pow2Neg 1) = some 0x0000000000000002#64 ∧
    mulNum 0x8000000000000001#64 (pow2Neg 1) = some 0x8000000000000000#64 ∧
    mulNum 0x0010000000000000#64 (pow2Neg 1) = some 0x0008000000000000#64 ∧
    mulNum 0x0000000000000006#64 (pow2Neg 2) = some 0x0000000000000002#64 ∧
    mulNum 0x0000000000000005#64 (pow2Neg 2) = some 0x0000000000000001#64 := by decide +kernel

/-- S2: sums and differences of the reference vector. -/
theorem test_sums :
    addNum 0x3FEFFF5A5332ACFB#64 0x3FB61059EA57214F#64 = some 0x3FF160B2C83EC892#64 ∧
    addNum 0x3FD0F5A964E8B7E5#64 (fneg 0x3FEDAD27807789A4#64) = some 0xBFE53252CE032DB2#64 := by decide +kernel

/-- 5.1, last rows: overflow to infinity, `inf - inf`, signed zeros. -/
theorem test_sum_edges :
    addNum 0x7FE1CCF385EBC8A0#64 0x7FE1CCF385EBC8A0#64 = some 0x7FF0000000000000#64 ∧
    addNum 0x7FF0000000000000#64 0xFFF0000000000000#64 = none ∧
    addNum 0x0000000000000000#64 0x8000000000000000#64 = some 0x0000000000000000#64 := by decide +kernel

/-! ## Micro-operations -/

/-- 5.1, row 2: `(WR, WI) = i`. -/
theorem test_bfly_i :
    opWords (.bfly 0 2) (withW (ramp8.take 4) 0x0000000000000000#64 0x3FF0000000000000#64) 4 =
      [0xC008000000000000#64, 0x4014000000000000#64, 0x4014000000000000#64, 0xBFF0000000000000#64] := by
  decide +kernel

/-- 5.1, row 3: `(WR, WI) = W(2, 0, 1)`. -/
theorem test_bfly_w :
    opWords (.bfly 0 2)
      (withW [0x3FF8000000000000#64, 0xC000000000000000#64, 0x3FD0000000000000#64, 0x4008000000000000#64]
        0x3FE6A09E667F3BCD#64 0x3FE6A09E667F3BCD#64) 4 =
      [0xBFDC736733BBC8E8#64, 0x3FD314059A3B04B8#64, 0x400B8E6CE677791D#64, 0xC011314059A3B04C#64] := by
  decide +kernel

/-- 6.3: `RPAIR 1 0`, `N = 8`. -/
theorem test_rpair_forward :
    opWords (.rpair 1 .forward 8)
      (withW [0x4024000000000000#64, 0x4026000000000000#64, 0x3FF0000000000000#64, 0x4000000000000000#64,
              0x4014000000000000#64, 0x4018000000000000#64, 0x4008000000000000#64, 0x4010000000000000#64]
        0x3FE6A09E667F3BCD#64 0x3FE6A09E667F3BCD#64) 8 =
      [0x4024000000000000#64, 0x4026000000000000#64, 0x400B504F333F9DE7#64, 0x3FFD413CCCFE779A#64,
       0x4014000000000000#64, 0x4018000000000000#64, 0x3FE2BEC333018864#64, 0x400EA09E667F3BCD#64] := by
  decide +kernel

/-- 6.3: `RPAIR 1 1` on that, with `W(2, 1, 1)`. -/
theorem test_rpair_inverse :
    opWords (.rpair 1 .inverse 8)
      (withW [0x4024000000000000#64, 0x4026000000000000#64, 0x400B504F333F9DE7#64, 0x3FFD413CCCFE779A#64,
              0x4014000000000000#64, 0x4018000000000000#64, 0x3FE2BEC333018864#64, 0x400EA09E667F3BCD#64]
        0x3FE6A09E667F3BCD#64 0xBFE6A09E667F3BCD#64) 8 =
      [0x4024000000000000#64, 0x4026000000000000#64, 0x3FEFFFFFFFFFFFFE#64, 0x4000000000000002#64,
       0x4014000000000000#64, 0x4018000000000000#64, 0x4008000000000000#64, 0x4010000000000001#64] := by
  decide +kernel

/-- 4.3: row 3 forward, `mi = 1` to `mi = 2` by one `TWSTEP`. -/
theorem test_twstep :
    let t := applyOp .twstep (applyOp .twstep (applyOp (.twseed 3 .forward) State.reset))
    (t.wr, t.wi) = (0x3FE6A09E667F3BCC#64, 0x3FE6A09E667F3BCD#64) := by decide +kernel

/-- 3: the exchanges for `N = 16`. -/
theorem test_seqPermute_16 :
    seqPermute 16 = [.swapc 1 8, .swapc 2 4, .swapc 3 12, .swapc 5 10, .swapc 7 14, .swapc 11 13] := by decide

/-- 6.1: the micro-operations of `RXFORM.F.R 8`. -/
theorem test_expand_rxform :
    expand Config.default12 ⟨false, 0⟩ 0x00000804#32 =
      [.swapc 1 2, .twseed 0 .forward, .bfly 0 2, .bfly 4 6, .twseed 1 .forward, .bfly 0 4, .twstep, .bfly 2 6,
       .twseed 2 .forward, .twstep, .rpair 1 .forward 8, .rdc .forward, .finish .ok] := by decide

/-- 5.5: the micro-operations of `XFORM.F.T 8` after `INIT 4`. -/
theorem test_expand_table :
    expand Config.default12 ⟨true, 4⟩ 0x00000823#32 =
      [.swapc 1 2, .twload .forward 0, .bfly 0 2, .bfly 4 6, .twload .forward 1, .bfly 0 4, .twload .forward 2,
       .bfly 2 6, .finish .ok] := by decide

/-! ## Commands -/

/-- 45_command_control.md R173: after a failed command, `NOP` leaves `STATUS = 0x00000002`. -/
theorem test_nop_clears_error :
    regsOf (exec .nop { State.reset with done := true, err := 1 }) =
      some (0x00000002#32, 0x00000000#32, 0x00000000#32) := by decide +kernel

/-- 4.5: entry 6 and the registers after `INIT 8`. -/
theorem test_init_8 :
    entryOf (exec (.init 8) State.reset) 6 =
      some ((0xBFE6A09E667F3BCE#64, 0x3FE6A09E667F3BCE#64), (0xBFE6A09E667F3BCE#64, 0xBFE6A09E667F3BCE#64)) ∧
    regsOf (exec (.init 8) State.reset) = some (0x00000002#32, 0x80000008#32, 0x00000801#32) := by decide +kernel

/-- 5.8: `INIT 6` after `INIT 2` reports 1 and the old tag stays. -/
theorem test_init_6 :
    regsOf (andThen (exec (.init 2) State.reset) (.init 6)) =
      some (0x00000012#32, 0x80000002#32, 0x00000601#32) := by decide +kernel

/-- 3: `PERMUTE 16` moves samples to `0 4 2 6 1 5 3 7`; a NaN keeps its bits. -/
theorem test_permute_16 :
    wordsOf (exec (.permute 16)
      (loaded [0#64, 100#64, 1#64, 101#64, 2#64, 102#64, 3#64, 103#64, 4#64, 104#64, 5#64, 105#64, 6#64, 106#64,
               0x7FF0000000000123#64, 107#64])) 16 =
      some [0#64, 100#64, 4#64, 104#64, 2#64, 102#64, 6#64, 106#64, 1#64, 101#64, 5#64, 105#64, 3#64, 103#64,
            0x7FF0000000000123#64, 107#64] := by decide +kernel

/-- 5.5: the ramp forward. -/
theorem test_xformFR_ramp :
    wordsOf (exec (.xformFR 8) (loaded ramp8)) 8 = some ramp8Forward ∧
    regsOf (exec (.xformFR 8) (loaded ramp8)) = some (0x00000002#32, 0x00000000#32, 0x00000803#32) := by
  decide +kernel

/-- 5.5: an impulse at sample 1 gives bins `1, i, -1, -i`: the forward exponent is positive. -/
theorem test_xformFR_sign :
    wordsOf (exec (.xformFR 8) (loaded [0#64, 0#64, 0x3FF0000000000000#64, 0#64, 0#64, 0#64, 0#64, 0#64])) 8 =
      some [0x3FF0000000000000#64, 0x0000000000000000#64, 0x0000000000000000#64, 0x3FF0000000000000#64,
            0xBFF0000000000000#64, 0x0000000000000000#64, 0x0000000000000000#64, 0xBFF0000000000000#64] := by
  decide +kernel

/-- 5.5: the same impulse inverse. -/
theorem test_xformIR_sign :
    wordsOf (exec (.xformIR 8) (loaded [0#64, 0#64, 0x3FF0000000000000#64, 0#64, 0#64, 0#64, 0#64, 0#64])) 8 =
      some [0x3FD0000000000000#64, 0x0000000000000000#64, 0x0000000000000000#64, 0xBFD0000000000000#64,
            0xBFD0000000000000#64, 0x0000000000000000#64, 0x0000000000000000#64, 0x3FD0000000000000#64] := by
  decide +kernel

/-- 5.5: `XFORM.I.R 8` returns the ramp exactly. -/
theorem test_xformIR_ramp : wordsOf (exec (.xformIR 8) (loaded ramp8Forward)) 8 = some ramp8 := by decide +kernel

/-- 5.5: after `INIT 4` table mode gives the identical end state. -/
theorem test_xformFT_ramp :
    wordsOf (andThen (exec (.init 4) (loaded ramp8)) (.xformFT 8)) 8 = some ramp8Forward := by decide +kernel

/-- 5.8: no INIT; and the wrong length is reported before the missing table. -/
theorem test_xformFT_errors :
    regsOf (exec (.xformFT 8) State.reset) = some (0x00000022#32, 0x00000000#32, 0x00000823#32) ∧
    regsOf (exec (.xformFT 6) State.reset) = some (0x00000012#32, 0x00000000#32, 0x00000623#32) := by decide +kernel

/-- 5.5 with 42_twiddle.md R121: the inverse in table mode returns the ramp as well. -/
theorem test_xformIT_ramp :
    wordsOf (andThen (exec (.init 4) (loaded ramp8Forward)) (.xformIT 8)) 8 = some ramp8 := by decide +kernel

/-- 5.8: a table of another size is no table. -/
theorem test_xformIT_size :
    regsOf (andThen (exec (.init 2) State.reset) (.xformIT 8)) =
      some (0x00000022#32, 0x80000002#32, 0x00000833#32) := by decide +kernel

/-- 6.1, `N = 8`. -/
theorem test_rxformFR_8 : wordsOf (exec (.rxformFR 8) (loaded ramp8)) 8 = some ramp8Real := by decide +kernel

/-- 6.1, `N = 2`. -/
theorem test_rxformFR_2 :
    wordsOf (exec (.rxformFR 2) (loaded (ramp8.take 2))) 2 =
      some [0x4008000000000000#64, 0xBFF0000000000000#64] := by decide +kernel

/-- 6.1: the inverse returns `1 .. 8` exactly. -/
theorem test_rxformIR_8 : wordsOf (exec (.rxformIR 8) (loaded ramp8Real)) 8 = some ramp8 := by decide +kernel

/-- 5.8: `RXFORM` of length 3, in the inverse form. -/
theorem test_rxformIR_3 :
    regsOf (exec (.rxformIR 3) State.reset) = some (0x00000012#32, 0x00000000#32, 0x00000314#32) := by decide +kernel

/-- 6.1: table mode after `INIT 8`. -/
theorem test_rxformFT_8 :
    wordsOf (andThen (exec (.init 8) (loaded ramp8)) (.rxformFT 8)) 8 = some ramp8Real := by decide +kernel

/-- 5.8: after `INIT 2` a table-mode RXFORM of 4 has no table; RXFORM asks for its whole `LEN`. -/
theorem test_rxformFT_size :
    regsOf (andThen (exec (.init 2) State.reset) (.rxformFT 4)) =
      some (0x00000022#32, 0x80000002#32, 0x00000424#32) := by decide +kernel

/-- 6.1 with 42_twiddle.md R121: table mode after `INIT 8`, inverse. -/
theorem test_rxformIT_8 :
    wordsOf (andThen (exec (.init 8) (loaded ramp8Real)) (.rxformIT 8)) 8 = some ramp8 := by decide +kernel

/-- 5.8: an illegal word. -/
theorem test_illegal_word :
    regsOf (step { State.reset with inbox := [.call 0x00000663#32] }) =
      some (0x00000032#32, 0x00000000#32, 0x00000663#32) := by decide +kernel

/-- S3: the word that the interface places runs as the first step after reset. -/
theorem test_step_runs_placed_word :
    wordsOf (step ((loaded [0x3FF0000000000000#64, 0x3FF0000000000000#64, 0x3FF0000000000000#64,
      0x3FF0000000000000#64]).withFetchWord 32 0x00000404)) 4 =
      some [0x4010000000000000#64, 0x0000000000000000#64, 0x0000000000000000#64, 0x0000000000000000#64] := by
  decide +kernel

/-! ## Port: 5.10 -/

/-- A state in the middle of a command. -/
def running : State :=
  { State.reset with
    busy := true
    cmd := 0x00000803#32
    pend := [.swapc 1 2, .finish .ok] }

theorem test_port_idle :
    (hostTurn (.read .csr 3) State.reset).resp = some (.reg 0x0000010C#32) ∧
    (hostTurn (.read .csr 4) State.reset).resp = some .err ∧
    (hostTurn (.writeCsr 1 7) State.reset).resp = some .err ∧
    (hostTurn (.read .dmem 8192) State.reset).resp = some .err ∧
    (hostTurn (.writeDmem 8192 0) State.reset).resp = some .err ∧
    (hostTurn (.read .twt 32764) State.reset).resp = some .err ∧
    (hostTurn (.writeTwt 0 0) State.reset).resp = some .err ∧
    (hostTurn (.read .dmem 8191) { State.reset with dmem := [(8191, 5#64)] }).resp = some (.word 5#64) ∧
    (hostTurn (.read .twt 32763) { State.reset with twtI := [(8190, (4#64, 5#64))] }).resp = some (.word 5#64) := by
  decide

theorem test_port_busy :
    (hostTurn (.read .csr 1) running).resp = some (.reg 0x00000001#32) ∧
    (hostTurn (.read .csr 3) running).resp = some (.reg 0x0000010C#32) ∧
    (hostTurn (.read .csr 0) running).resp = some .err ∧ (hostTurn (.read .csr 2) running).resp = some .err ∧
    (hostTurn (.read .dmem 0) running).resp = some .err ∧
    (hostTurn (.writeCsr 0 0) running).resp = some .err ∧ (hostTurn (.writeCsr 0 0) running).cmd = 0x00000803#32 := by
  decide

/-! ## Witnesses: for each statement with hypotheses, states and operands that meet all of them, at the ends of their
ranges -/

/-- A state with the tables of `INIT 2` and its tag. -/
def tabled : State :=
  { State.reset with
    tblValid := true
    tblSize := 2
    twtF := [(0, (0x3FF0000000000000#64, 0x0000000000000000#64))]
    twtI := [(0, (0x3FF0000000000000#64, 0x0000000000000000#64))] }

/-- An idle state after a failed command, events ahead. -/
def idleWith (events : List Event) : State := { State.reset with done := true, err := 1, inbox := events }

/-- A running command, events ahead. -/
def runningWith (events : List Event) : State := { running with inbox := events }

/-- The same with the smallest parameter. -/
def smallest : State := { State.reset with cfg := ⟨0⟩ }

/-- The same with the greatest parameter. -/
def greatest : State := { State.reset with cfg := ⟨21⟩ }

theorem witness_EncodeThenDecodeIsIdentity :
    Instr.wellFormed .nop = true ∧ Instr.wellFormed (.init 0) = true ∧ Instr.wellFormed (.rxformIT 16777215) = true := by
  decide

theorem witness_DecodeThenEncodeIsIdentity :
    decode 0xFFFFFF34#32 = .ok (.rxformIT 16777215) ∧ decode 0x00000000#32 = .ok .nop := by decide

theorem witness_OpcodeMapIsTheCommandSet :
    decode 0xFFFFFF02#32 = .ok (.permute 16777215) ∧ (Instr.permute 16777215) ≠ .nop ∧
    OpcodeRow.matches (Instr.row (.permute 0)) 0xFFFFFF02#32 = true ∧
    Instr.row (.permute 0) ∈ opcodeRows ∧ ∀ r ∈ opcodeRows, r.matches 0x000000F2#32 = false := by decide

theorem witness_IllegalWordsAreTheListedOnes :
    decode 0x000000C3#32 = .error .reservedBits ∧ decode 0x00000005#32 = .error .reservedOpcode ∧
    decode 0x00000022#32 = .error .permuteMode ∧ decode 0x01000000#32 = .error .nopArgument := by decide

/-- The greatest finite word twice (the infinite side), and the least subnormal twice (the finite side). -/
theorem witness_SumIsRoundedOnceToNearestEven :
    isFinite 0x7FEFFFFFFFFFFFFF#64 = true ∧
    addNum 0x7FEFFFFFFFFFFFFF#64 0x7FEFFFFFFFFFFFFF#64 = some 0x7FF0000000000000#64 ∧
    isFinite 0x7FF0000000000000#64 = false ∧ isFinite 0x0000000000000001#64 = true ∧
    addNum 0x0000000000000001#64 0x0000000000000001#64 = some 0x0000000000000002#64 := by decide +kernel

theorem witness_ProductIsRoundedOnceToNearestEven :
    isFinite 0x7FEFFFFFFFFFFFFF#64 = true ∧
    mulNum 0x7FEFFFFFFFFFFFFF#64 0x4000000000000000#64 = some 0x7FF0000000000000#64 ∧
    isFinite 0x8000000000000001#64 = true ∧
    mulNum 0x8000000000000001#64 0x3FE0000000000000#64 = some 0x8000000000000000#64 := by decide +kernel

theorem witness_ResultIsNaNExactlyWhen :
    isNaN 0x7FF0000000000001#64 = true ∧ isInf 0x7FF0000000000000#64 = true ∧ isInf 0xFFF0000000000000#64 = true ∧
    signOf 0x7FF0000000000000#64 ≠ signOf 0xFFF0000000000000#64 ∧ isZero 0x8000000000000000#64 = true ∧
    isNaN (fadd 0 one64 one64) = false ∧ isNaN (fmul 0 one64 one64) = false := by decide +kernel

theorem witness_SumSpecialCases :
    isInf 0xFFF0000000000000#64 = true ∧ isFinite 0x7FEFFFFFFFFFFFFF#64 = true ∧
    signOf 0xFFF0000000000000#64 = signOf 0xFFF0000000000000#64 ∧ isFinite one64 = true ∧ isZero one64 = false ∧
    valueOf one64 + valueOf 0xBFF0000000000000#64 = 0 ∧ isNaN 0x0000000000000001#64 = false ∧
    isZero 0x0000000000000001#64 = false ∧ isZero 0x8000000000000000#64 = true := by decide +kernel

theorem witness_SubtractionIsSumOfNegation :
    (63 : Nat) < 64 ∧ (62 : Nat) < 64 ∧ isFinite 0x7FEFFFFFFFFFFFFF#64 = true ∧ isInf 0x7FF0000000000000#64 = true ∧
    signOf 0x7FF0000000000000#64 = signOf 0x7FF0000000000000#64 := by decide

theorem witness_ExactProductsAndCommutation :
    isNaN 0x7FF0000000000000#64 = false ∧ isFinite 0x0170000000000000#64 = true ∧
    (2 : Int) ^ (52 + 22) ≤ |valueOf 0x0170000000000000#64| ∧ isInf 0xFFF0000000000000#64 = true ∧
    isNaN 0x7FF0000000000000#64 = false ∧ isZero 0x0000000000000001#64 = false ∧
    isZero 0x8000000000000000#64 = true ∧ isFinite 0x7FEFFFFFFFFFFFFF#64 = true := by decide +kernel

theorem witness_SwapcExchangesTwoSamples :
    (0 : Nat) < 4095 ∧ 2 * 4095 + 1 < State.reset.cfg.dmemWords ∧ 2 * 1 + 1 < smallest.cfg.dmemWords := by decide

theorem witness_BflyComputesTheButterfly :
    0 + 1 < 8190 ∧ 8190 + 1 < State.reset.cfg.dmemWords ∧ 0 + 1 < 2 ∧ 2 + 1 < smallest.cfg.dmemWords := by decide

theorem witness_ScaleAndEdgeSteps :
    (22 : Nat) ≤ 22 ∧ 8191 < State.reset.cfg.dmemWords ∧ 3 < smallest.cfg.dmemWords := by decide

theorem witness_RpairComputesThePair :
    1 ≤ 2047 ∧ 4 * 2047 < 8192 ∧ 8192 % 2 = 0 ∧ 8192 ≤ State.reset.cfg.dmemWords ∧ 4 * 1 < 8 := by decide

theorem witness_TwiddleMicroOperations :
    12 ≤ State.reset.cfg.logn ∧ 22 ≤ greatest.cfg.logn ∧ 8190 < State.reset.cfg.twtEntries ∧
    8388608 < 2 ^ 24 := by decide

/-- The seeds of row 1, `WI = +0` in both (a zero, not negated; `1.0 * (+0) = +0`), and of the ends of the range of rows; and
the pair of 4.2, row 2, `mi = 1`, with `WI` negated. -/
theorem witness_TwstepKeepsConjugates :
    12 ≤ State.reset.cfg.logn ∧ 0 ≤ smallest.cfg.logn ∧ 22 ≤ greatest.cfg.logn ∧
    Conjugate (twseed 1 .forward State.reset) (twseed 1 .inverse State.reset) ∧
    mulNum (twseed 1 .forward State.reset).wr (twseed 1 .forward State.reset).ct ≠ some 0x8000000000000000#64 ∧
    Conjugate ((twseed 2 .forward State.reset).setW 0x3FE6A09E667F3BCD#64 0x3FE6A09E667F3BCD#64)
      ((twseed 2 .inverse State.reset).setW 0x3FE6A09E667F3BCD#64 0xBFE6A09E667F3BCD#64) ∧
    fpVal 0xBFE6A09E667F3BCD#64 = FpVal.neg (fpVal 0x3FE6A09E667F3BCD#64) ∧
    ∀ m < 3, FpVal.mul (twiddleW 2 .forward m).1 (fpVal (romC 2)) ≠ some 0x8000000000000000#64 :=
  ⟨by decide, by decide, by decide, ⟨rfl, rfl, rfl, .inr (by decide)⟩, by decide +kernel,
    ⟨rfl, rfl, rfl, .inl (by decide)⟩, by decide, by decide +kernel⟩

theorem witness_ExpansionIsInRangeAndFinishes :
    expand Config.default12 ⟨false, 0⟩ 0x00000823#32 = [] ++ [.finish .uninitializedTable] ∧
    ErrCode.uninitializedTable ≠ .ok := by decide

theorem witness_NopOnlyReports :
    (idleWith []).busy = false ∧ opcField 0x00000100#32 = 0 ∧ (0x00000100#32 : Reg32) ≠ 0 ∧
    opcField 0x00000010#32 = 0 := by decide

theorem witness_IllegalWordCompletesWithThree :
    (idleWith [.call 0x0000000F#32, .seq]).busy = false ∧
    (idleWith [.call 0x0000000F#32, .seq]).inbox = .call 0x0000000F#32 :: [.seq] ∧
    decode 0x0000000F#32 = .error .reservedOpcode := by decide

theorem witness_InitBuildsBothTables :
    State.reset.busy = false ∧ 13 ≤ State.reset.cfg.logn + 1 ∧ 23 ≤ greatest.cfg.logn + 1 ∧
    0 ≤ smallest.cfg.logn + 1 := by decide

theorem witness_PermuteMovesEverySample :
    State.reset.busy = false ∧ 12 ≤ State.reset.cfg.logn ∧ 1 ≤ smallest.cfg.logn ∧ 4095 < 2 ^ 12 ∧
    11 < 12 := by decide

theorem witness_PermuteTwiceRestores :
    (idleWith []).busy = false ∧ 12 ≤ (idleWith []).cfg.logn ∧ .swapc 1 2 ∈ seqPermute (2 ^ 2) := by decide

theorem witness_XformComputesTheStageNetwork :
    State.reset.busy = false ∧ 12 ≤ State.reset.cfg.logn ∧ 0 ≤ State.reset.cfg.logn ∧
    tabled.busy = false ∧ tabled.tblValid = true ∧ tabled.tblSize.toNat = 2 ^ 1 ∧ 1 ≤ tabled.cfg.logn := by decide

theorem witness_RxformComputesTheRealTransform :
    State.reset.busy = false ∧ 12 ≤ State.reset.cfg.logn ∧ tabled.busy = false ∧ tabled.tblValid = true ∧
    tabled.tblSize.toNat = 2 ^ (0 + 1) := by decide

/-- The tables of `tabled` hold what its tag says. -/
theorem tabled_matches : TablesMatchTag tabled := by
  intro _ row hrow d mi hmi
  have h2 : log2 tabled.tblSize.toNat = 1 := by decide
  obtain rfl : row = 0 := by omega
  obtain rfl : mi = 0 := by omega
  cases d <;> decide +kernel

theorem witness_TableModeEqualsRecurrenceMode :
    tabled.busy = false ∧ 1 ≤ tabled.cfg.logn ∧ tabled.tblValid = true ∧ tabled.tblSize.toNat = 2 ^ 1 ∧
    tabled.tblSize.toNat = 2 ^ (0 + 1) ∧ TablesMatchTag tabled :=
  ⟨rfl, by decide, rfl, rfl, rfl, tabled_matches⟩

theorem witness_SmallestTransforms :
    (loaded ramp8).busy = false ∧ isFinite ((loaded ramp8).D 2) = true ∧ isZero ((loaded ramp8).D 2) = false ∧
    isFinite ((loaded ramp8).D 3) = true ∧ isZero ((loaded ramp8).D 3) = false := by decide

/-- Odd, zero, not twice a power of two, too long; and the same of INIT's size. -/
theorem witness_BadLengthReportsOne :
    State.reset.busy = false ∧ 3 % 2 = 1 ∧ (¬ ∃ k, 6 / 2 = 2 ^ k) ∧ State.reset.cfg.dmemWords < 16384 ∧
    (¬ ∃ k, 6 = 2 ^ k) ∧ 2 * State.reset.cfg.nmax < 16384 := by
  have h3 : ∀ k : Nat, 3 ≠ 2 ^ k := fun k h => by
    match k with
    | 0 => omega
    | k + 1 => rw [Nat.pow_succ] at h; omega
  refine ⟨rfl, rfl, fun ⟨k, h⟩ => h3 k (by omega), by decide, fun ⟨k, h⟩ => ?_, by decide⟩
  match k with
  | 0 => omega
  | k + 1 => rw [Nat.pow_succ] at h; exact h3 k (by omega)

/-- No table; a table of another size; the ends of the range of lengths. -/
theorem witness_MissingTableReportsTwo :
    State.reset.busy = false ∧ State.reset.tblValid = false ∧ 12 ≤ State.reset.cfg.logn ∧
    tabled.busy = false ∧ tabled.tblSize.toNat ≠ 2 ^ 0 ∧ tabled.tblSize.toNat ≠ 2 ^ (12 + 1) ∧
    12 ≤ tabled.cfg.logn := by decide

theorem witness_FirstFailingCheckIsReported :
    (idleWith []).busy = false ∧ reportCode Config.default12 (idleWith []).tag 0x00000623#32 ≠ .ok ∧
    reportCode Config.default12 (idleWith []).tag 0x00000803#32 = .ok ∧
    (⟨false, 0⟩ : TableTag).valid = false ∧
    portErr (.read .csr 4) (idleWith []) = some .range ∧ portErr (.writeTwt 0 0) (idleWith []) = some .readOnly ∧
    portErr (.read .csr 0) running = some .busy := by decide

theorem witness_CommandWhileBusyIsRefused : running.busy = true := by decide

/-- A called command answers a next state, and one that reports an error does. -/
theorem witness_CommandFrame :
    (idleWith []).busy = false ∧
    (∃ t, exec (.permute 2) (idleWith []) = .next t) ∧
    (∃ t, exec (.init 0) (idleWith []) = .next t ∧ t.err ≠ 0) ∧ (∃ t, exec .nop (idleWith []) = .next t) ∧
    signalWords (.permute 2) ≤ 2 ∧ (∀ size, (Instr.permute 2) ≠ .init size) :=
  ⟨rfl, ⟨_, rfl⟩, ⟨_, rfl, by decide⟩, ⟨_, rfl⟩, by decide, by simp⟩

/-- Memories that differ in word 2, which `PERMUTE 2` has no part of. -/
theorem witness_WordsBeyondTheSignalDoNotMatter :
    (loaded ramp8).busy = false ∧
    (∀ a < signalWords (.permute 2), ({ loaded ramp8 with dmem := [(0, one64), (1, 0x4000000000000000#64)] } : State).D a
      = (loaded ramp8).D a) ∧
    ∃ t, exec (.permute 2) (loaded ramp8) = .next t :=
  ⟨rfl, by decide, _, rfl⟩

theorem witness_WorkingRegistersNeverMatter :
    State.reset.busy = false ∧ ∃ t, exec (.permute 2) State.reset = .next t := ⟨rfl, _, rfl⟩

/-- Refused and allowed transactions, at the ends of the index ranges. -/
theorem witness_PortRefusesExactlyWhen :
    portAllows State.reset (.read .csr 3) ∧ portAllows running (.read .csr 3) ∧ ¬ portAllows running (.read .csr 0) ∧
    portAllows State.reset (.read .dmem 8191) ∧ ¬ portAllows State.reset (.read .dmem 8192) ∧
    portAllows State.reset (.read .twt 32763) ∧ ¬ portAllows State.reset (.read .twt 32764) ∧
    portAllows State.reset (.writeCsr 0 0) ∧ ¬ portAllows State.reset (.writeCsr 1 0) ∧
    portAllows State.reset (.writeDmem 8191 0) ∧ ¬ portAllows State.reset (.writeDmem 8192 0) ∧
    ¬ portAllows State.reset (.writeTwt 0 0) := by
  simp only [portAllows]
  decide

theorem witness_PortReadsReturnTheElement :
    State.reset.busy = false ∧ 8191 < State.reset.cfg.dmemWords ∧ 8190 < State.reset.cfg.twtEntries := by decide

theorem witness_PortWriteSetsOneWord :
    State.reset.busy = false ∧ 8191 < State.reset.cfg.dmemWords ∧ 3 < smallest.cfg.dmemWords := by decide

/-- A safe state in the middle of a command. -/
theorem running_safe (events : List Event) : SafeState (runningWith events) where
  mem := rfl
  busyNotDone := fun _ => rfl
  errNeedsDone := fun _ => rfl
  errCode := by show (0#4).toNat ≤ 3; decide
  tagSize := fun h => nomatch h
  tagEmpty := fun _ => rfl
  idlePend := fun h => nomatch h
  busyPend := fun _ => ⟨[.swapc 1 2], .ok, rfl, by
    show ∀ op ∈ [MicroOp.swapc 1 2], op.isWork Config.default12 = true
    decide⟩

theorem witness_RegisterLayouts :
    State.reset.busy = false ∧ (1 : Nat) ≠ 0 ∧ running.busy = true ∧ SafeState (runningWith []) :=
  ⟨rfl, by decide, rfl, running_safe []⟩

theorem witness_OnlyStatusAndCapWhileBusy :
    running.busy = true ∧ portErr (.read .csr 3) running = none ∧ portErr (.writeDmem 0 0) running = some .busy := by
  decide

theorem witness_AcceptanceLatchesAnyWord : (idleWith []).busy = false := by decide

theorem witness_StepTakesTheNextTurn :
    (runningWith [.host (.read .csr 3)]).inbox = .host (.read .csr 3) :: [] ∧
    (idleWith [.call 0x00001034#32, .seq]).inbox = .call 0x00001034#32 :: [.seq] ∧
    (runningWith [.reset, .seq]).inbox = .reset :: [.seq] ∧
    (runningWith [.seq, .reset]).busy = true ∧ (runningWith [.seq, .reset]).pend = .swapc 1 2 :: [.finish .ok] ∧
    MicroOp.inRange Config.default12 (.swapc 1 2) = true ∧ (runningWith [.seq, .reset]).inbox = .seq :: [.reset] ∧
    (runningWith []).inbox = [] ∧ (idleWith [.seq]).busy = false ∧ (idleWith [.seq]).inbox = .seq :: [] ∧
    (idleWith []).busy = false ∧ (idleWith []).inbox = [] := by decide

theorem witness_BigStepIsTheSmallSteps :
    (idleWith []).busy = false ∧ ∃ t, step { idleWith [] with inbox := [.call 0x00000202#32] } = .next t :=
  ⟨rfl, _, rfl⟩

theorem witness_RunningCommandCompletes :
    SafeState (runningWith []) ∧ (runningWith []).busy = true ∧ (runningWith []).inbox = [] :=
  ⟨running_safe [], rfl, rfl⟩

theorem witness_StepRunsTheDecodedCommand :
    (idleWith [.call 0x00001034#32]).inbox = .call 0x00001034#32 :: [] ∧
    (runningWith [.call 0x00000000#32]).inbox = .call 0x00000000#32 :: [] ∧
    decode 0x00001034#32 = .ok (.rxformIT 16) ∧ decodeTableWord 32 0x1034 = some (.rxformIT 16) := by decide

/-- Each kind of event on a running command, and none. -/
theorem witness_StepKeepsSafeState :
    (SafeState (runningWith [.seq]) ∧ ∃ t, step (runningWith [.seq]) = .next t) ∧
    (SafeState (runningWith [.reset]) ∧ ∃ t, step (runningWith [.reset]) = .next t) ∧
    (SafeState (runningWith [.call 0x00000000#32]) ∧ ∃ t, step (runningWith [.call 0x00000000#32]) = .next t) ∧
    (SafeState (runningWith [.host (.read .csr 1)]) ∧ ∃ t, step (runningWith [.host (.read .csr 1)]) = .next t) ∧
    (SafeState (runningWith []) ∧ ∃ t, step (runningWith []) = .next t) :=
  ⟨⟨running_safe _, _, rfl⟩, ⟨running_safe _, _, rfl⟩, ⟨running_safe _, _, rfl⟩, ⟨running_safe _, _, rfl⟩,
    ⟨running_safe _, _, rfl⟩⟩

theorem witness_SafeStateNeverStops : SafeState (runningWith [.seq]) := running_safe _

/-- A safe state with a valid tag, its tables as the tag says, nothing running. -/
theorem tabled_safe : SafeState tabled where
  mem := by decide
  busyNotDone := fun h => nomatch h
  errNeedsDone := fun _ => rfl
  errCode := by show (0#4).toNat ≤ 3; decide
  tagSize := fun _ => by decide
  tagEmpty := fun h => nomatch h
  idlePend := fun _ => rfl
  busyPend := fun h => nomatch h

theorem witness_TablesSettleIsKept :
    SafeState tabled ∧ TablesSettle tabled ∧ ∃ t, step tabled = .next t :=
  ⟨tabled_safe, tabled_matches, _, rfl⟩

theorem witness_TableTagStaysUntilReset :
    tabled.tblValid = true ∧ tabled.inbox.head? ≠ some .reset ∧ ∃ t, step tabled = .next t :=
  ⟨rfl, by decide, _, rfl⟩

theorem witness_OnlyInitWritesTheTables :
    (∃ t, step (runningWith [.seq]) = .next t) ∧ (runningWith [.seq]).inbox.head? ≠ some .reset ∧
    (runningWith [.seq]).pend.head? = some (.swapc 1 2) ∧
    (∀ w, (runningWith [.seq]).inbox.head? ≠ some (.call w)) ∧ (∀ size, decode 0x00000803#32 ≠ .ok (.init size)) := by
  refine ⟨⟨_, rfl⟩, by decide, by decide, fun w h => by simp [runningWith] at h, fun size h => ?_⟩
  have h8 : decode 0x00000803#32 = .ok (.xformFR 8) := by decide
  rw [h8] at h
  nomatch h

theorem witness_ResetClearsControlState : running.cfg = Config.default12 := by decide

end Sys2Proof.Tests
end

section
/-! PROOFS. The working registers (10_state.md R27): a list of micro-operations that seeds or loads WR, WI, CT, ST before
it reads them gives the same result whatever they held before. -/

namespace Sys2Proof.Machine

/-- `t` is `s` with other values of CT and ST. -/
def SameButAngle (s t : State) : Prop := ∃ c sn, t = s.setAngle c sn

/-- `t` is `s` with other values of WR, WI, CT and ST. -/
def SameButWork (s t : State) : Prop := ∃ re im c sn, t = (s.setAngle c sn).setW re im

/-- Started with other CT and ST, the list ends with the same state but for CT and ST. -/
def IgnoresAngle (ops : List MicroOp) : Prop :=
  ∀ s t, SameButAngle s t → SameButAngle (effects ops s) (effects ops t)

/-- Started with other working registers, the list ends with the same state but for the working registers. -/
def IgnoresWork (ops : List MicroOp) : Prop :=
  ∀ s t, SameButWork s t → SameButWork (effects ops s) (effects ops t)

theorem SameButAngle.toWork {s t : State} (h : SameButAngle s t) : SameButWork s t := by
  obtain ⟨c, sn, rfl⟩ := h
  exact ⟨s.wr, s.wi, c, sn, rfl⟩

theorem SameButWork.refl (s : State) : SameButWork s s := ⟨s.wr, s.wi, s.ct, s.st, rfl⟩

/-- The relation in the form in which statements write a frame: `s` with the working registers of `t` is `t`. -/
theorem SameButWork.eq_with {s t : State} (h : SameButWork s t) :
    t = { s with wr := t.wr, wi := t.wi, ct := t.ct, st := t.st } := by
  obtain ⟨re, im, c, sn, rfl⟩ := h
  rfl

/-! ### Single micro-operations -/

/-- BFLY and RPAIR read WR and WI, never CT and ST. -/
theorem ignoresAngle_bfly (k j : Nat) : IgnoresAngle [.bfly k j] := by
  rintro s _ ⟨c, sn, rfl⟩
  exact ⟨c, sn, rfl⟩

theorem ignoresAngle_rpair (j : Nat) (d : Dir) (n : Nat) : IgnoresAngle [.rpair j d n] := by
  rintro s _ ⟨c, sn, rfl⟩
  exact ⟨c, sn, rfl⟩

theorem ignoresWork_swapc (a b : Nat) : IgnoresWork [.swapc a b] := by
  rintro s _ ⟨re, im, c, sn, rfl⟩
  exact ⟨re, im, c, sn, rfl⟩

theorem ignoresWork_scale (i r : Nat) : IgnoresWork [.scale i r] := by
  rintro s _ ⟨re, im, c, sn, rfl⟩
  exact ⟨re, im, c, sn, rfl⟩

theorem ignoresWork_rdc (d : Dir) : IgnoresWork [.rdc d] := by
  rintro s _ ⟨re, im, c, sn, rfl⟩
  cases d <;> exact ⟨re, im, c, sn, rfl⟩

theorem ignoresWork_tset (size : Nat) : IgnoresWork [.tset size] := by
  rintro s _ ⟨re, im, c, sn, rfl⟩
  exact ⟨re, im, c, sn, rfl⟩

/-! ### Lists -/

theorem ignoresAngle_append {xs ys : List MicroOp} (hx : IgnoresAngle xs) (hy : IgnoresAngle ys) :
    IgnoresAngle (xs ++ ys) := by
  intro s t h
  rw [effects_append, effects_append]
  exact hy _ _ (hx _ _ h)

theorem ignoresWork_nil : IgnoresWork [] := fun _ _ h => h

theorem ignoresWork_append {xs ys : List MicroOp} (hx : IgnoresWork xs) (hy : IgnoresWork ys) :
    IgnoresWork (xs ++ ys) := by
  intro s t h
  rw [effects_append, effects_append]
  exact hy _ _ (hx _ _ h)

theorem ignoresAngle_of_forall {ops : List MicroOp} (h : ∀ op ∈ ops, IgnoresAngle [op]) : IgnoresAngle ops := by
  induction ops with
  | nil => exact fun _ _ h => h
  | cons op ops ih =>
    exact ignoresAngle_append (h op (by simp)) (ih fun o ho => h o (by simp [ho]))

theorem ignoresWork_flatMap {α : Type} {f : α → List MicroOp} (xs : List α) (h : ∀ x ∈ xs, IgnoresWork (f x)) :
    IgnoresWork (xs.flatMap f) := by
  induction xs with
  | nil => exact ignoresWork_nil
  | cons x xs ih =>
    exact ignoresWork_append (h x (by simp)) (ih fun y hy => h y (by simp [hy]))

theorem ignoresWork_map {α : Type} {f : α → MicroOp} (xs : List α) (h : ∀ x ∈ xs, IgnoresWork [f x]) :
    IgnoresWork (xs.map f) := by
  rw [List.map_eq_flatMap]
  exact ignoresWork_flatMap xs h

/-- TWSEED writes all four working registers: from there on the two runs are one (42_twiddle.md R112). -/
theorem ignoresWork_twseed (row : Nat) (d : Dir) (ops : List MicroOp) : IgnoresWork (.twseed row d :: ops) := by
  rintro s _ ⟨re, im, c, sn, rfl⟩
  exact SameButWork.refl (effects ops (twseed row d s))

/-- TWLOAD writes WR and WI: what follows may read these, but not CT and ST (42_twiddle.md R115). -/
theorem ignoresWork_twload (d : Dir) (e : Nat) {ops : List MicroOp} (h : IgnoresAngle ops) :
    IgnoresWork (.twload d e :: ops) := by
  rintro s _ ⟨re, im, c, sn, rfl⟩
  have hload : SameButAngle (twload d e s) (twload d e ((s.setAngle c sn).setW re im)) :=
    ⟨c, sn, by simp only [twload, State.T_setW, State.T_setAngle]; rfl⟩
  exact (h _ _ hload).toWork

/-! ### The sequences of the commands -/

theorem ignoresWork_seqPermuteFrom (n count k j : Nat) : IgnoresWork (seqPermuteFrom n count k j) := by
  induction count generalizing k j with
  | zero => exact ignoresWork_nil
  | succ count ih =>
    refine ignoresWork_append ?_ (ih _ _)
    split
    · exact ignoresWork_swapc k j
    · exact ignoresWork_nil

/-- A row of a recurrence starts with its seed: offset 0 is the first of the `2^s` offsets (42_twiddle.md R118). -/
theorem recurrenceRow_eq_seed (s : Nat) (d : Dir) (rest : Nat → List MicroOp) :
    ∃ ops, ((List.range (2 ^ s)).flatMap fun mi => seqTwiddle s mi d .recurrence ++ rest mi) = .twseed s d :: ops := by
  obtain ⟨k, hk⟩ : ∃ k, 2 ^ s = k + 1 := ⟨2 ^ s - 1, by have := Nat.two_pow_pos s; omega⟩
  exact ⟨_, by rw [hk, List.range_succ_eq_map, List.flatMap_cons]; rfl⟩

theorem ignoresWork_initRow (s : Nat) (d : Dir) : IgnoresWork (initRow s d) := by
  obtain ⟨ops, h⟩ := recurrenceRow_eq_seed s d fun mi => [.twstore d (twIndex s mi)]
  rw [initRow, h]
  exact ignoresWork_twseed s d ops

theorem ignoresWork_seqInit (size : Nat) : IgnoresWork (seqInit size) :=
  ignoresWork_append
    (ignoresWork_flatMap _ fun s _ => ignoresWork_append (ignoresWork_initRow s _) (ignoresWork_initRow s _))
    (ignoresWork_tset size)

theorem ignoresAngle_seqOffset (n s mi : Nat) : IgnoresAngle (seqOffset n s mi) := by
  refine ignoresAngle_of_forall fun op hop => ?_
  obtain ⟨g, -, rfl⟩ := List.mem_map.1 hop
  exact ignoresAngle_bfly _ _

theorem ignoresWork_seqStage (n s : Nat) (d : Dir) (twm : TwMode) : IgnoresWork (seqStage n s d twm) := by
  cases twm with
  | recurrence =>
    obtain ⟨ops, h⟩ := recurrenceRow_eq_seed s d (seqOffset n s)
    rw [seqStage, h]
    exact ignoresWork_twseed s d ops
  | table => exact ignoresWork_flatMap _ fun mi _ => ignoresWork_twload d _ (ignoresAngle_seqOffset n s mi)

theorem ignoresWork_seqScale (n : Nat) (d : Dir) : IgnoresWork (seqScale n d) := by
  cases d with
  | forward => exact ignoresWork_nil
  | inverse => exact ignoresWork_map _ fun i _ => ignoresWork_scale i _

theorem ignoresWork_seqCore (n : Nat) (d : Dir) (twm : TwMode) : IgnoresWork (seqCore n d twm) :=
  ignoresWork_append
    (ignoresWork_append (ignoresWork_seqPermuteFrom n n 0 0)
      (ignoresWork_flatMap _ fun s _ => ignoresWork_seqStage n s d twm))
    (ignoresWork_seqScale n d)

theorem ignoresWork_seqRpost (n : Nat) (d : Dir) (twm : TwMode) : IgnoresWork (seqRpost n d twm) := by
  cases twm with
  | recurrence => exact ignoresWork_twseed _ d _
  | table =>
    exact ignoresWork_append
      (ignoresWork_flatMap _ fun g _ => ignoresWork_twload d _ (ignoresAngle_rpair (g + 1) d n))
      (ignoresWork_rdc d)

theorem ignoresWork_seqReal (n : Nat) (d : Dir) (twm : TwMode) : IgnoresWork (seqReal n d twm) := by
  cases d with
  | forward => exact ignoresWork_append (ignoresWork_seqCore _ _ twm) (ignoresWork_seqRpost n _ twm)
  | inverse => exact ignoresWork_append (ignoresWork_seqRpost n _ twm) (ignoresWork_seqCore _ _ twm)

/-! ### Commands -/

theorem ignoresWork_planXform (c : Config) (tag : TableTag) (len : Nat) (d : Dir) (twm : TwMode) :
    IgnoresWork (planXform c tag len d twm).ops := by
  unfold planXform
  split
  · split
    · exact ignoresWork_seqCore _ d twm
    · exact ignoresWork_nil
  · exact ignoresWork_nil

theorem ignoresWork_planRxform (c : Config) (tag : TableTag) (len : Nat) (d : Dir) (twm : TwMode) :
    IgnoresWork (planRxform c tag len d twm).ops := by
  unfold planRxform
  split
  · split
    · exact ignoresWork_seqReal _ d twm
    · exact ignoresWork_nil
  · exact ignoresWork_nil

theorem ignoresWork_planPermute (c : Config) (len : Nat) : IgnoresWork (planPermute c len).ops := by
  unfold planPermute
  split
  · exact ignoresWork_seqPermuteFrom _ _ 0 0
  · exact ignoresWork_nil

theorem ignoresWork_planInit (c : Config) (size : Nat) : IgnoresWork (planInit c size).ops := by
  unfold planInit
  split
  · exact ignoresWork_seqInit size
  · exact ignoresWork_nil

theorem ignoresWork_planOf (c : Config) (tag : TableTag) (i : Instr) : IgnoresWork (planOf c tag i).ops := by
  cases i with
  | nop => exact ignoresWork_nil
  | init size => exact ignoresWork_planInit c size
  | permute len => exact ignoresWork_planPermute c len
  | xformFR len | xformIR len | xformFT len | xformIT len => exact ignoresWork_planXform c tag len _ _
  | rxformFR len | rxformIR len | rxformFT len | rxformIT len => exact ignoresWork_planRxform c tag len _ _

theorem SameButWork.accept {s t : State} (h : SameButWork s t) (w : Reg32) (ops : List MicroOp) :
    SameButWork (s.accept w ops) (t.accept w ops) := by
  obtain ⟨re, im, c, sn, rfl⟩ := h
  exact ⟨re, im, c, sn, rfl⟩

theorem SameButWork.finished {s t : State} (h : SameButWork s t) (code : ErrCode) :
    SameButWork ((s.complete code).setPend []) ((t.complete code).setPend []) := by
  obtain ⟨re, im, c, sn, rfl⟩ := h
  exact ⟨re, im, c, sn, rfl⟩

/-- A command whose micro-operations ignore the working registers gives the same next state but for them. -/
theorem command_sameButWork {w : Reg32} {p : Plan} {s s' t : State} (hp : IgnoresWork p.ops) (hs : SameButWork s s')
    (hb : s.busy = false) (h : command w p s = .next t) : ∃ t', command w p s' = .next t' ∧ SameButWork t t' := by
  obtain ⟨hbusy, -⟩ | ⟨-, hr, rfl⟩ := command_cases h
  · simp [hb] at hbusy
  · have hcfg : s'.cfg = s.cfg ∧ s'.busy = s.busy := by obtain ⟨re, im, c, sn, rfl⟩ := hs; exact ⟨rfl, rfl⟩
    refine ⟨_, command_idle (hcfg.2.trans hb) (by rwa [hcfg.1]), ?_⟩
    exact (hp _ _ (hs.accept w p.expand)).finished p.code

/-- Settles O36: every command's plan ignores the working registers, since each row of twiddles begins with its TWSEED or
takes each factor by a TWLOAD. -/
theorem workingRegistersNeverMatter : Obligations.WorkingRegistersNeverMatter := by
  intro i s t wr wi ct st hb h
  rw [exec_eq] at h
  obtain ⟨t', ht', hsame⟩ :=
    command_sameButWork (ignoresWork_planOf s.cfg s.tag i) ⟨wr, wi, ct, st, rfl⟩ hb h
  exact ⟨t', by rw [exec_eq]; exact ht', hsame.eq_with⟩

end Sys2Proof.Machine
end

section
/-! PROOFS. What a command's plan holds (45_command_control.md R171): micro-operations whose indices exist, and TWSTORE
and TSET only in INIT. -/

namespace Sys2Proof.Machine

/-- Work that writes neither the tables nor their tag: what PERMUTE, XFORM and RXFORM are made of (42_twiddle.md R125). -/
def MicroOp.isSignalWork (c : Config) (op : MicroOp) : Bool :=
  op.inRange c &&
    match op with
    | .twstore _ _ => false
    | .tset _ => false
    | .finish _ => false
    | _ => true

theorem MicroOp.isWork_of_isSignalWork {c : Config} {op : MicroOp} (h : op.isSignalWork c = true) :
    op.isWork c = true := by
  simp only [isSignalWork, isWork, Bool.and_eq_true] at h ⊢
  refine ⟨h.1, ?_⟩
  cases op with
  | tset size => cases h.2
  | finish code => cases h.2
  | _ => rfl

section SignalWork
variable {c : Config}

theorem MicroOp.isSignalWork_swapc {a b : Nat} :
    (MicroOp.swapc a b).isSignalWork c = true ↔ 2 * a + 1 < c.dmemWords ∧ 2 * b + 1 < c.dmemWords := by
  simp [isSignalWork, inRange]

theorem MicroOp.isSignalWork_twseed {row : Nat} {d : Dir} :
    (MicroOp.twseed row d).isSignalWork c = true ↔ row ≤ c.logn := by simp [isSignalWork, inRange]

theorem MicroOp.isSignalWork_twstep : MicroOp.twstep.isSignalWork c = true := rfl

theorem MicroOp.isSignalWork_twload {d : Dir} {e : Nat} :
    (MicroOp.twload d e).isSignalWork c = true ↔ e < c.twtEntries := by simp [isSignalWork, inRange]

theorem MicroOp.isSignalWork_bfly {k j : Nat} :
    (MicroOp.bfly k j).isSignalWork c = true ↔ k + 1 < c.dmemWords ∧ j + 1 < c.dmemWords := by
  simp [isSignalWork, inRange]

theorem MicroOp.isSignalWork_scale {i r : Nat} :
    (MicroOp.scale i r).isSignalWork c = true ↔ i < c.dmemWords := by simp [isSignalWork, inRange]

theorem MicroOp.isSignalWork_rpair {j n : Nat} {d : Dir} :
    (MicroOp.rpair j d n).isSignalWork c = true ↔ 2 * j + 1 < c.dmemWords ∧ n - 2 * j + 1 < c.dmemWords := by
  simp [isSignalWork, inRange]

theorem MicroOp.isSignalWork_rdc {d : Dir} : (MicroOp.rdc d).isSignalWork c = true ↔ 1 < c.dmemWords := by
  simp [isSignalWork, inRange]

end SignalWork

theorem MicroOp.inRange_of_isWork {c : Config} {op : MicroOp} (h : op.isWork c = true) : op.inRange c = true := by
  simp only [isWork, Bool.and_eq_true] at h
  exact h.1

/-! ### Bounds -/

/-- A signal of `2^m` complex samples lies in DMEM (00_scope.md R7). -/
theorem signal_le_dmemWords {c : Config} {m : Nat} (hm : m ≤ c.logn) : 2 * 2 ^ m ≤ c.dmemWords :=
  Nat.mul_le_mul_left 2 (Nat.pow_le_pow_right Nat.two_pos hm)

/-- The entries of row `s` are those from `2^s - 1` to `2^(s+1) - 2` (42_twiddle.md R117). -/
theorem twIndex_bounds {s mi : Nat} (h : mi < 2 ^ s) : 2 ^ s ≤ twIndex s mi + 1 ∧ twIndex s mi + 1 < 2 ^ (s + 1) := by
  simp only [twIndex, Nat.pow_succ]
  omega

/-- The rows up to `LOGN_MAX` lie in the tables (00_scope.md R8). -/
theorem twIndex_lt_twtEntries {c : Config} {s mi : Nat} (hs : s ≤ c.logn) (h : mi < 2 ^ s) :
    twIndex s mi < c.twtEntries := by
  have hidx := (twIndex_bounds h).2
  have hrow : 2 ^ s ≤ c.nmax := Nat.pow_le_pow_right Nat.two_pos hs
  rw [Nat.pow_succ] at hidx
  rw [Config.twtEntries]
  omega

theorem revAdvance_le (fuel top j : Nat) : revAdvance fuel top j ≤ j + top := by
  induction fuel generalizing top j with
  | zero => exact Nat.le_refl _
  | succ fuel ih =>
    unfold revAdvance
    split
    · have := ih (top / 2) (j - top)
      omega
    · exact Nat.le_refl _

/-- The reversed counter stays below `n` (41_bitrev.md R102). -/
theorem revAdvance_lt {n j : Nat} (fuel : Nat) (h : j < n) : revAdvance (fuel + 1) (n / 2) j < n := by
  unfold revAdvance
  split
  · have := revAdvance_le fuel (n / 2 / 2) (j - n / 2)
    omega
  · omega

/-! ### The sequences -/

variable {c : Config} {op : MicroOp}

theorem isSignalWork_of_mem_seqPermuteFrom {n count k j : Nat} (hn : 2 * n ≤ c.dmemWords) (hk : k + count = n) (hj : j < n)
    (h : op ∈ seqPermuteFrom n count k j) : op.isSignalWork c = true := by
  induction count generalizing k j with
  | zero => simp [seqPermuteFrom] at h
  | succ count ih =>
    rw [seqPermuteFrom, List.mem_append] at h
    rcases h with h | h
    · obtain rfl : op = .swapc k j := by
        split at h
        · simpa using h
        · simp at h
      rw [MicroOp.isSignalWork_swapc]
      omega
    · exact ih (by omega) (revAdvance_lt _ hj) h

theorem isSignalWork_of_mem_seqTwiddle {s mi : Nat} {d : Dir} {twm : TwMode} (hs : s ≤ c.logn) (hmi : mi < 2 ^ s)
    (h : op ∈ seqTwiddle s mi d twm) : op.isSignalWork c = true := by
  cases twm with
  | recurrence =>
    rw [seqTwiddle] at h
    split at h <;> obtain rfl := List.mem_singleton.1 h
    · exact MicroOp.isSignalWork_twseed.2 hs
    · exact MicroOp.isSignalWork_twstep
  | table =>
    obtain rfl := List.mem_singleton.1 h
    exact MicroOp.isSignalWork_twload.2 (twIndex_lt_twtEntries hs hmi)

/-- The butterflies of a stage stay inside the signal's `2N` words (43_butterfly.md R131). -/
theorem isSignalWork_of_mem_seqOffset {m s mi : Nat} (hm : m ≤ c.logn) (hmi : mi < 2 ^ s)
    (h : op ∈ seqOffset (2 ^ m) s mi) : op.isSignalWork c = true := by
  obtain ⟨g, hg, rfl⟩ := List.mem_map.1 h
  have hwords := signal_le_dmemWords hm
  have hgroup : (g + 1) * (2 * 2 ^ s) ≤ 2 ^ m :=
    (Nat.mul_le_mul_right _ (List.mem_range.1 hg)).trans (Nat.div_mul_le_self _ _)
  have hlast : g * (2 * (2 * 2 ^ s)) + 2 * (2 * 2 ^ s) = 2 * ((g + 1) * (2 * 2 ^ s)) := by ring
  rw [MicroOp.isSignalWork_bfly]
  omega

theorem isSignalWork_of_mem_seqStages {m : Nat} {d : Dir} {twm : TwMode} (hm : m ≤ c.logn)
    (h : op ∈ seqStages (2 ^ m) d twm) : op.isSignalWork c = true := by
  obtain ⟨s, hs, h⟩ := List.mem_flatMap.1 h
  obtain ⟨mi, hmi, h⟩ := List.mem_flatMap.1 h
  rw [log2_two_pow, List.mem_range] at hs
  rw [List.mem_range] at hmi
  rcases List.mem_append.1 h with h | h
  · exact isSignalWork_of_mem_seqTwiddle (by omega) hmi h
  · exact isSignalWork_of_mem_seqOffset hm hmi h

theorem isSignalWork_of_mem_seqScale {n : Nat} {d : Dir} (hn : 2 * n ≤ c.dmemWords) (h : op ∈ seqScale n d) :
    op.isSignalWork c = true := by
  cases d with
  | forward => simp [seqScale] at h
  | inverse =>
    obtain ⟨i, hi, rfl⟩ := List.mem_map.1 h
    rw [List.mem_range] at hi
    rw [MicroOp.isSignalWork_scale]
    omega

theorem isSignalWork_of_mem_seqPermute {m : Nat} (hm : m ≤ c.logn) (h : op ∈ seqPermute (2 ^ m)) :
    op.isSignalWork c = true :=
  isSignalWork_of_mem_seqPermuteFrom (signal_le_dmemWords hm) (Nat.zero_add _) (Nat.two_pow_pos m) h

theorem isSignalWork_of_mem_seqCore {m : Nat} {d : Dir} {twm : TwMode} (hm : m ≤ c.logn)
    (h : op ∈ seqCore (2 ^ m) d twm) : op.isSignalWork c = true := by
  rw [seqCore, List.mem_append, List.mem_append] at h
  obtain (h | h) | h := h
  · exact isSignalWork_of_mem_seqPermute hm h
  · exact isSignalWork_of_mem_seqStages hm h
  · exact isSignalWork_of_mem_seqScale (signal_le_dmemWords hm) h

/-- The pairs of the real post-processor stay inside the signal, its twiddles inside row `log2(N/2)` (44_realfft.md R151,
R154). -/
theorem isSignalWork_of_mem_seqRpost {m : Nat} {d : Dir} {twm : TwMode} (hm : m ≤ c.logn)
    (h : op ∈ seqRpost (2 * 2 ^ m) d twm) : op.isSignalWork c = true := by
  have hwords := signal_le_dmemWords hm
  have hhalf : 2 * 2 ^ m / 2 = 2 ^ m := by omega
  have hone := Nat.two_pow_pos m
  rw [seqRpost, List.mem_append, List.mem_append] at h
  obtain (h | h) | h := h
  · cases twm with
    | recurrence =>
      obtain rfl := List.mem_singleton.1 h
      exact MicroOp.isSignalWork_twseed.2 (by rwa [hhalf, log2_two_pow])
    | table => simp [seqRpostSeed] at h
  · obtain ⟨g, hg, h⟩ := List.mem_flatMap.1 h
    rw [List.mem_range] at hg
    rw [List.mem_pair] at h
    rcases h with rfl | rfl
    · cases twm with
      | recurrence => exact MicroOp.isSignalWork_twstep
      | table =>
        have hidx := twIndex_lt_twtEntries hm (show g + 1 < 2 ^ m by omega)
        exact MicroOp.isSignalWork_twload.2 (by rwa [hhalf])
    · rw [MicroOp.isSignalWork_rpair]
      omega
  · obtain rfl := List.mem_singleton.1 h
    rw [MicroOp.isSignalWork_rdc]
    omega

theorem isSignalWork_of_mem_seqReal {m : Nat} {d : Dir} {twm : TwMode} (hm : m ≤ c.logn)
    (h : op ∈ seqReal (2 * 2 ^ m) d twm) : op.isSignalWork c = true := by
  have hhalf : 2 * 2 ^ m / 2 = 2 ^ m := by omega
  cases d <;> rw [seqReal, hhalf, List.mem_append] at h <;> rcases h with h | h
  · exact isSignalWork_of_mem_seqCore hm h
  · exact isSignalWork_of_mem_seqRpost hm h
  · exact isSignalWork_of_mem_seqRpost hm h
  · exact isSignalWork_of_mem_seqCore hm h

theorem isWork_of_mem_initRow {s : Nat} {d : Dir} (hs : s ≤ c.logn) (h : op ∈ initRow s d) : op.isWork c = true := by
  obtain ⟨mi, hmi, h⟩ := List.mem_flatMap.1 h
  rw [List.mem_range] at hmi
  rcases List.mem_append.1 h with h | h
  · exact MicroOp.isWork_of_isSignalWork (isSignalWork_of_mem_seqTwiddle hs hmi h)
  · obtain rfl := List.mem_singleton.1 h
    simp [MicroOp.isWork, MicroOp.inRange, twIndex_lt_twtEntries hs hmi]

theorem isWork_of_mem_seqInit {size : Nat} (hsize : sizeOk c size = true) (h : op ∈ seqInit size) :
    op.isWork c = true := by
  obtain ⟨n, hn, rfl⟩ := sizeOk_iff.1 hsize
  rcases List.mem_append.1 h with h | h
  · obtain ⟨s, hs, h⟩ := List.mem_flatMap.1 h
    rw [log2_two_pow, List.mem_range] at hs
    rcases List.mem_append.1 h with h | h <;> exact isWork_of_mem_initRow (by omega) h
  · obtain rfl := List.mem_singleton.1 h
    simp [MicroOp.isWork, MicroOp.inRange, hsize]

/-! ### The plans -/

/-- A plan that a word can have: an illegal word's or a command's (45_command_control.md R171, R174). -/
def IsPlan (c : Config) (tag : TableTag) (p : Plan) : Prop := p = planIllegal ∨ ∃ i, p = planOf c tag i

theorem isPlan_planWord (c : Config) (tag : TableTag) (w : Reg32) : IsPlan c tag (planWord c tag w) := by
  unfold planWord
  split
  · next i _ => exact .inr ⟨i, rfl⟩
  · exact .inl rfl

/-- A plan's work is on the signal alone, or it is INIT's of an admitted size. -/
def Plan.SignalOrInit (c : Config) (p : Plan) : Prop :=
  (∀ op ∈ p.ops, op.isSignalWork c = true) ∨ ∃ size, sizeOk c size = true ∧ p.ops = seqInit size

theorem signalOrInit_fail (code : ErrCode) : (Plan.fail code).SignalOrInit c := .inl (by simp [Plan.fail])

theorem signalOrInit_planInit (size : Nat) : (planInit c size).SignalOrInit c := by
  unfold planInit
  split
  · next hsize => exact .inr ⟨size, hsize, rfl⟩
  · exact signalOrInit_fail _

theorem signalOrInit_planPermute (len : Nat) : (planPermute c len).SignalOrInit c := by
  unfold planPermute
  split
  · next hlen =>
    obtain ⟨m, hm, rfl⟩ := lenOk_iff.1 hlen
    rw [Nat.mul_div_cancel_left _ Nat.two_pos]
    exact .inl fun op h => isSignalWork_of_mem_seqPermute hm h
  · exact signalOrInit_fail _

theorem signalOrInit_planXform (tag : TableTag) (len : Nat) (d : Dir) (twm : TwMode) :
    (planXform c tag len d twm).SignalOrInit c := by
  unfold planXform
  split
  · next hlen =>
    obtain ⟨m, hm, rfl⟩ := lenOk_iff.1 hlen
    rw [Nat.mul_div_cancel_left _ Nat.two_pos]
    split
    · exact .inl fun op h => isSignalWork_of_mem_seqCore hm h
    · exact signalOrInit_fail _
  · exact signalOrInit_fail _

theorem signalOrInit_planRxform (tag : TableTag) (len : Nat) (d : Dir) (twm : TwMode) :
    (planRxform c tag len d twm).SignalOrInit c := by
  unfold planRxform
  split
  · next hlen =>
    obtain ⟨m, hm, rfl⟩ := lenOk_iff.1 hlen
    split
    · exact .inl fun op h => isSignalWork_of_mem_seqReal hm h
    · exact signalOrInit_fail _
  · exact signalOrInit_fail _

/-- Everything a plan can be made of. -/
theorem IsPlan.signalOrInit {tag : TableTag} {p : Plan} (h : IsPlan c tag p) : p.SignalOrInit c := by
  obtain rfl | ⟨i, rfl⟩ := h
  · exact signalOrInit_fail _
  cases i with
  | nop => exact .inl (by simp [planOf, planNop])
  | init size => exact signalOrInit_planInit size
  | permute len => exact signalOrInit_planPermute len
  | xformFR len | xformIR len | xformFT len | xformIT len => exact signalOrInit_planXform tag len _ _
  | rxformFR len | rxformIR len | rxformFT len | rxformIT len => exact signalOrInit_planRxform tag len _ _

/-- Every micro-operation of a plan is work that a running command may hold (20_memory.md R47). -/
theorem IsPlan.isWork {tag : TableTag} {p : Plan} (h : IsPlan c tag p) (hop : op ∈ p.ops) : op.isWork c = true := by
  obtain hsignal | ⟨size, hsize, hinit⟩ := h.signalOrInit
  · exact MicroOp.isWork_of_isSignalWork (hsignal op hop)
  · exact isWork_of_mem_seqInit hsize (hinit ▸ hop)

theorem IsPlan.pendOk_expand {tag : TableTag} {p : Plan} (h : IsPlan c tag p) : pendOk c p.expand :=
  ⟨p.ops, p.code, rfl, fun _ hop => h.isWork hop⟩

end Sys2Proof.Machine
end

section
/-! PROOFS. What every step keeps: the tag's lifetime and the invariant of safe states (10_state.md R35). -/

namespace Sys2Proof.Machine

/-! ### The step, with the command's plan named -/

theorem callTurn_ne_reset (w : Reg32) : callTurn w ≠ .reset := by
  unfold callTurn
  split <;> simp

/-- A fetch takes at most one event, and gives a reset only for a reset at the head of the inbox. -/
theorem fetch_cases {s u : State} {turn : Turn} (h : fetch s = (turn, u)) :
    (∃ es, u = s.setInbox es) ∧ (turn = .reset → s.inbox.head? = some .reset) := by
  cases hin : s.inbox with
  | nil =>
    rw [fetch_nil hin, Prod.mk.injEq] at h
    obtain ⟨rfl, rfl⟩ := h
    refine ⟨⟨s.inbox, rfl⟩, fun hturn => ?_⟩
    split at hturn <;> cases hturn
  | cons e rest =>
    rw [fetch_cons hin, Prod.mk.injEq] at h
    obtain ⟨rfl, rfl⟩ := h
    refine ⟨⟨rest, rfl⟩, fun hturn => ?_⟩
    cases e with
    | host x | seq => cases hturn
    | call w => exact absurd hturn (callTurn_ne_reset w)
    | reset => rfl

/-- Everything a step can do, from the state with its event taken away: the big step of a plan, a transaction, a turn of
SEQ, reset, or nothing. -/
theorem step_effect_cases {s t : State} (h : step s = .next t) :
    ∃ es,
      (∃ w p, IsPlan s.cfg s.tag p ∧ command w p (s.setInbox es) = .next t) ∨
      (∃ x, t = hostTurn x (s.setInbox es)) ∨
      seqStep (s.setInbox es) = .ok t ∨
      (s.inbox.head? = some .reset ∧ t = (s.setInbox es).resetNow) ∨
      t = s.setInbox es := by
  obtain ⟨i, u, hf, h⟩ | ⟨w, u, hf, h⟩ | ⟨x, u, hf, h⟩ | ⟨u, hf, h⟩ | ⟨u, hf, h⟩ | ⟨u, hf, h⟩ := step_cases h <;>
    obtain ⟨⟨es, rfl⟩, hreset⟩ := fetch_cases hf <;> refine ⟨es, ?_⟩
  · rw [exec_eq] at h
    exact .inl ⟨_, _, .inr ⟨i, rfl⟩, h⟩
  · exact .inl ⟨w, _, .inl rfl, h⟩
  · exact .inr (.inl ⟨x, h⟩)
  · exact .inr (.inr (.inl h))
  · exact .inr (.inr (.inr (.inl ⟨hreset rfl, h⟩)))
  · exact .inr (.inr (.inr (.inr h)))

/-! ### The tag -/

/-- No micro-operation clears TBL_VALID (10_state.md R31). -/
theorem tblValid_applyOp {s : State} (op : MicroOp) (h : s.tblValid = true) : (applyOp op s).tblValid = true := by
  cases op with
  | tset size => rfl
  | twstore d e => simpa [applyOp, twstore] using h
  | rdc d => cases d <;> exact h
  | _ => exact h

theorem tblValid_effects {s : State} (ops : List MicroOp) (h : s.tblValid = true) :
    (effects ops s).tblValid = true := by
  induction ops generalizing s with
  | nil => exact h
  | cons op ops ih => exact ih (tblValid_applyOp op h)

theorem tblValid_command {w : Reg32} {p : Plan} {s t : State} (h : command w p s = .next t)
    (hv : s.tblValid = true) : t.tblValid = true := by
  obtain ⟨-, rfl⟩ | ⟨-, -, rfl⟩ := command_cases h
  · exact hv
  · exact tblValid_effects p.ops hv

theorem tblValid_hostTurn {s : State} (x : Txn) (hv : s.tblValid = true) : (hostTurn x s).tblValid = true := by
  obtain ht | ⟨sp, i, -, ht⟩ | ⟨w, -, -, ht⟩ | ⟨i, v, -, -, -, ht⟩ := hostTurn_cases x s <;> rw [ht] <;> exact hv

theorem tblValid_seqStep {s t : State} (h : seqStep s = .ok t) (hv : s.tblValid = true) : t.tblValid = true := by
  obtain ⟨-, rfl⟩ | ⟨op, rest, -, -, -, rfl⟩ := seqStep_cases h
  · exact hv
  · exact tblValid_applyOp op hv

/-- Settles O51: only reset clears TBL_VALID. -/
theorem tableTagStaysUntilReset : Obligations.TableTagStaysUntilReset := by
  intro s t hv hreset h
  obtain ⟨es, ⟨w, p, -, h⟩ | ⟨x, rfl⟩ | h | ⟨hhead, -⟩ | rfl⟩ := step_effect_cases h
  · exact tblValid_command h hv
  · exact tblValid_hostTurn x hv
  · exact tblValid_seqStep h hv
  · exact absurd hhead hreset
  · exact hv

/-- R35.3 and R35.5: a valid tag is an admitted size, no tag has size 0. -/
structure TagOk (s : State) : Prop where
  size : s.tblValid = true → sizeOk s.cfg s.tblSize.toNat = true
  empty : s.tblValid = false → s.tblSize = 0

theorem TagOk.congr {s t : State} (h : TagOk s) (hc : t.cfg = s.cfg) (hv : t.tblValid = s.tblValid)
    (hs : t.tblSize = s.tblSize) : TagOk t :=
  ⟨by rw [hv, hc, hs]; exact h.size, by rw [hv, hs]; exact h.empty⟩

theorem TagOk.setPend {s : State} (h : TagOk s) (ops : List MicroOp) : TagOk (s.setPend ops) := h.congr rfl rfl rfl

theorem TagOk.accept {s : State} (h : TagOk s) (w : Reg32) (ops : List MicroOp) : TagOk (s.accept w ops) :=
  h.congr rfl rfl rfl

/-- An admitted size fits the 24 bits of TBL_SIZE (10_state.md R23). -/
theorem toNat_tblSize_of_sizeOk {c : Config} {size : Nat} (h : sizeOk c size = true) :
    (BitVec.ofNat 24 size).toNat = size := by
  obtain ⟨n, hn, rfl⟩ := sizeOk_iff.1 h
  have hlogn := (Config.logn_range c).2
  have hpow : 2 ^ n < 2 ^ 24 := Nat.pow_lt_pow_right (by omega) (by omega)
  rw [BitVec.toNat_ofNat, Nat.mod_eq_of_lt hpow]

/-! ### Work on a safe state -/

/-- Work never touches STATUS (45_command_control.md R175: only FINISH does). -/
theorem applyOp_status {c : Config} {op : MicroOp} (h : op.isWork c = true) (s : State) :
    (applyOp op s).busy = s.busy ∧ (applyOp op s).done = s.done ∧ (applyOp op s).err = s.err := by
  cases op with
  | finish code => simp [MicroOp.isWork] at h
  | twstore d e => simp [applyOp, twstore]
  | rdc d => cases d <;> exact ⟨rfl, rfl, rfl⟩
  | _ => exact ⟨rfl, rfl, rfl⟩

/-- Work keeps the tag admitted. -/
theorem TagOk.applyOp {s : State} {op : MicroOp} (h : TagOk s) (hw : op.isWork s.cfg = true) :
    TagOk (applyOp op s) := by
  cases op with
  | tset size =>
    have hsize : sizeOk s.cfg size = true := by simpa [MicroOp.isWork, MicroOp.inRange] using hw
    refine ⟨fun _ => ?_, fun hv => nomatch hv⟩
    show sizeOk s.cfg (BitVec.ofNat 24 size).toNat = true
    rwa [toNat_tblSize_of_sizeOk hsize]
  | twstore d e => exact h.congr (State.setT_cfg ..) (State.setT_tblValid ..) (State.setT_tblSize ..)
  | rdc d => cases d <;> exact h.congr rfl rfl rfl
  | _ => exact h.congr rfl rfl rfl

theorem TagOk.effects {s : State} {ops : List MicroOp} (h : TagOk s) (hw : ∀ op ∈ ops, op.isWork s.cfg = true) :
    TagOk (effects ops s) := by
  induction ops generalizing s with
  | nil => exact h
  | cons op ops ih =>
    exact ih (h.applyOp (hw op (by simp))) fun o ho => by simpa using hw o (by simp [ho])

theorem ErrCode.bits_le (code : ErrCode) : code.bits.toNat ≤ 3 := by cases code <;> decide

theorem SafeState.tagOk {s : State} (h : SafeState s) : TagOk s := ⟨h.tagSize, h.tagEmpty⟩

/-- A state whose memories and tag are in order is safe as soon as a command has completed in it with nothing pending. -/
theorem safeState_completed {s : State} (hm : s.memWf = true) (ht : TagOk s) (code : ErrCode) (hp : s.pend = []) :
    SafeState (s.complete code) where
  mem := hm
  busyNotDone := fun h => nomatch h
  errNeedsDone := fun h => nomatch h
  errCode := code.bits_le
  tagSize := ht.size
  tagEmpty := ht.empty
  idlePend := fun _ => hp
  busyPend := fun h => nomatch h

/-- A state whose memories and tag are in order is safe as soon as it has accepted a command. -/
theorem safeState_accept {s : State} (hm : s.memWf = true) (ht : TagOk s) (w : Reg32) {ops : List MicroOp}
    (hp : pendOk s.cfg ops) : SafeState (s.accept w ops) where
  mem := hm
  busyNotDone := fun _ => rfl
  errNeedsDone := fun _ => rfl
  errCode := Nat.zero_le 3
  tagSize := ht.size
  tagEmpty := ht.empty
  idlePend := fun h => nomatch h
  busyPend := fun _ => hp

theorem SafeState.respond {s : State} (h : SafeState s) (r : Response) : SafeState (s.respond r) :=
  ⟨h.mem, h.busyNotDone, h.errNeedsDone, h.errCode, h.tagSize, h.tagEmpty, h.idlePend, h.busyPend⟩

theorem SafeState.setInbox {s : State} (h : SafeState s) (es : List Event) : SafeState (s.setInbox es) :=
  ⟨h.mem, h.busyNotDone, h.errNeedsDone, h.errCode, h.tagSize, h.tagEmpty, h.idlePend, h.busyPend⟩

theorem SafeState.setD {s : State} (h : SafeState s) {i : Nat} (hi : i < s.cfg.dmemWords) (v : Word) :
    SafeState (s.setD i v) :=
  ⟨State.memWf_setD h.mem hi v, h.busyNotDone, h.errNeedsDone, h.errCode, h.tagSize, h.tagEmpty, h.idlePend, h.busyPend⟩

theorem safeState_resetNow (s : State) : SafeState s.resetNow where
  mem := rfl
  busyNotDone := fun _ => rfl
  errNeedsDone := fun _ => rfl
  errCode := Nat.zero_le 3
  tagSize := fun h => nomatch h
  tagEmpty := fun _ => rfl
  idlePend := fun _ => rfl
  busyPend := fun h => nomatch h

/-- A pending list of a running command is its FINISH alone, or work before another such list. -/
theorem pendOk_cons {c : Config} {op : MicroOp} {rest : List MicroOp} (h : pendOk c (op :: rest)) :
    (∃ code, op = .finish code ∧ rest = []) ∨ (op.isWork c = true ∧ pendOk c rest) := by
  obtain ⟨work, code, heq, hwork⟩ := h
  cases work with
  | nil =>
    obtain ⟨rfl, rfl⟩ := List.cons.inj heq
    exact .inl ⟨code, rfl, rfl⟩
  | cons o work =>
    obtain ⟨rfl, rfl⟩ := List.cons.inj heq
    exact .inr ⟨hwork _ (by simp), work, code, rfl, fun o ho => hwork o (by simp [ho])⟩

/-! ### Every turn keeps a safe state -/

theorem SafeState.command {w : Reg32} {p : Plan} {s t : State} (hs : SafeState s) (hp : IsPlan s.cfg s.tag p)
    (h : command w p s = .next t) : SafeState t := by
  obtain ⟨-, rfl⟩ | ⟨-, hr, rfl⟩ := command_cases h
  · exact hs.respond .err
  · have hmem : (effects p.ops (s.accept w p.expand)).memWf = true := memWf_effects hr hs.mem
    have htag : TagOk (effects p.ops (s.accept w p.expand)) :=
      (hs.tagOk.accept w p.expand).effects fun op hop => hp.isWork hop
    exact safeState_completed (s := (effects p.ops (s.accept w p.expand)).setPend []) hmem (htag.setPend []) p.code rfl

theorem SafeState.hostTurn {s : State} (hs : SafeState s) (x : Txn) : SafeState (hostTurn x s) := by
  obtain ht | ⟨sp, i, -, ht⟩ | ⟨w, -, -, ht⟩ | ⟨i, v, -, hi, -, ht⟩ := hostTurn_cases x s <;> rw [ht]
  · exact hs.respond .err
  · exact hs.respond _
  · exact safeState_accept hs.mem hs.tagOk w (isPlan_planWord s.cfg s.tag w).pendOk_expand
  · exact (hs.setD hi v).respond .ok

/-- Work performed on a running command leaves a running command with the rest pending. -/
theorem SafeState.work {s : State} {op : MicroOp} {rest : List MicroOp} (hs : SafeState s) (hb : s.busy = true)
    (hw : op.isWork s.cfg = true) (hrest : pendOk s.cfg rest) : SafeState (applyOp op (s.setPend rest)) := by
  obtain ⟨hbusy, hdone, herr⟩ := applyOp_status hw (s.setPend rest)
  have htag : TagOk (applyOp op (s.setPend rest)) := (hs.tagOk.setPend rest).applyOp hw
  exact
    { mem := memWf_applyOp (MicroOp.inRange_of_isWork hw) hs.mem
      busyNotDone := fun _ => hdone.trans (hs.busyNotDone hb)
      errNeedsDone := fun h => herr.trans (hs.errNeedsDone (hdone.symm.trans h))
      errCode := by rw [herr]; exact hs.errCode
      tagSize := htag.size
      tagEmpty := htag.empty
      idlePend := fun h => by simp [hbusy, hb] at h
      busyPend := fun _ => by simpa using hrest }

theorem SafeState.seqStep {s t : State} (hs : SafeState s) (h : seqStep s = .ok t) : SafeState t := by
  obtain ⟨-, rfl⟩ | ⟨op, rest, hb, hpend, -, rfl⟩ := seqStep_cases h
  · exact hs
  · obtain ⟨code, rfl, rfl⟩ | ⟨hw, hrest⟩ := pendOk_cons (hpend ▸ hs.busyPend hb)
    · exact safeState_completed (s := s.setPend []) hs.mem (hs.tagOk.setPend []) code rfl
    · exact hs.work hb hw hrest

/-- Settles O48: each turn that a step can take keeps the invariant. -/
theorem stepKeepsSafeState : Obligations.StepKeepsSafeState := by
  intro s t hs h
  obtain ⟨es, ⟨w, p, hp, h⟩ | ⟨x, rfl⟩ | h | ⟨-, rfl⟩ | rfl⟩ := step_effect_cases h
  · exact (hs.setInbox es).command hp h
  · exact (hs.setInbox es).hostTurn x
  · exact (hs.setInbox es).seqStep h
  · exact safeState_resetNow _
  · exact hs.setInbox es

end Sys2Proof.Machine
end

section
/-! PROOFS. The tables and their tag (10_state.md R23): INIT fills every row it tags (42_twiddle.md R119), no other command
touches them, so every step keeps what they hold in step with the tag. -/

namespace Sys2Proof.Machine

/-! ### INIT -/

/-- The working registers hold `W(row, d, mi)` and the angle of the row (42_twiddle.md R114). -/
structure AtOffset (row : Nat) (d : Dir) (mi : Nat) (s : State) : Prop where
  w : fpPair (s.wr, s.wi) = twiddleW row d mi
  ct : s.ct = romC row
  st : s.st = romSin row d

theorem atOffset_twseed (row : Nat) (d : Dir) (s : State) : AtOffset row d 0 (twseed row d s) where
  w := by
    show (fpVal one64, fpVal zero64) = (some one64, some zero64)
    decide
  ct := rfl
  st := rfl

/-- TWSTEP is one step of the recurrence, whatever its draws (42_twiddle.md R113, R114). -/
theorem AtOffset.twstep {row mi : Nat} {d : Dir} {s : State} (h : AtOffset row d mi s) :
    AtOffset row d (mi + 1) (twstep s) where
  w := by
    obtain ⟨hwr, hwi⟩ := Prod.mk.inj (h.w : (fpVal s.wr, fpVal s.wi) = _)
    simp [Machine.twstep, fpPair, twiddleW, hwr, hwi, h.ct, h.st]
  ct := h.ct
  st := h.st

/-- `seq_twiddle` of a recurrence brings the registers to its offset from the offset before, and the tables stay. -/
theorem effects_seqTwiddle_recurrence {row k : Nat} {d : Dir} {s : State}
    (h : ∀ mi, k = mi + 1 → AtOffset row d mi s) :
    AtOffset row d k (effects (seqTwiddle row k d .recurrence) s) ∧
      ∀ d' e, (effects (seqTwiddle row k d .recurrence) s).T d' e = s.T d' e := by
  cases k with
  | zero => exact ⟨atOffset_twseed row d s, fun d' e => State.T_congr rfl rfl rfl d' e⟩
  | succ mi => exact ⟨(h mi rfl).twstep, fun d' e => State.T_congr rfl rfl rfl d' e⟩

/-- `t` comes from `s` by filling the first `k` entries of row `row` of direction `d`. -/
structure RowBuilt (row : Nat) (d : Dir) (k : Nat) (s t : State) : Prop where
  generator : ∀ mi, k = mi + 1 → AtOffset row d mi t
  filled : ∀ mi < k, fpPair (t.T d (twIndex row mi)) = twiddleW row d mi
  frame : ∀ d' e, (d' ≠ d ∨ ∀ mi < k, e ≠ twIndex row mi) → t.T d' e = s.T d' e

theorem RowBuilt.offset {row k : Nat} {d : Dir} {s t : State} (h : RowBuilt row d k s t) :
    RowBuilt row d (k + 1) s
      (effects (seqTwiddle row k d .recurrence ++ [.twstore d (twIndex row k)]) t) := by
  obtain ⟨hat, hT⟩ := effects_seqTwiddle_recurrence h.generator
  rw [effects_append, effects_cons, effects_nil]
  refine ⟨?_, ?_, ?_⟩
  · rintro mi hmi
    obtain rfl : k = mi := by omega
    exact ⟨by simpa [applyOp, twstore] using hat.w, by simpa [applyOp, twstore] using hat.ct,
      by simpa [applyOp, twstore] using hat.st⟩
  · intro mi hmi
    by_cases hk : mi = k
    · subst hk
      rw [applyOp, twstore, State.T_setT_self]
      exact hat.w
    · rw [applyOp, twstore, State.T_setT_ne _ (.inr (by simp only [twIndex]; omega)), hT]
      exact h.filled mi (by omega)
  · intro d' e hout
    have hne : d' ≠ d ∨ e ≠ twIndex row k := hout.imp_right fun he => he k (by omega)
    rw [applyOp, twstore, State.T_setT_ne _ hne, hT]
    exact h.frame d' e (hout.imp_right fun he mi hmi => he mi (by omega))

/-- One row of INIT fills that row and leaves every other entry of both tables (42_twiddle.md R119). -/
theorem rowBuilt_initRow (row : Nat) (d : Dir) (s : State) :
    RowBuilt row d (2 ^ row) s (effects (initRow row d) s) := by
  unfold initRow
  induction 2 ^ row with
  | zero => exact ⟨nofun, nofun, fun _ _ _ => rfl⟩
  | succ k ih =>
    rw [List.range_succ, List.flatMap_append, effects_append, List.flatMap_singleton]
    exact ih.offset

/-- The rows below `n` of direction `d` hold their twiddle values. -/
def RowsFilled (n : Nat) (d : Dir) (s : State) : Prop :=
  ∀ row < n, ∀ mi < 2 ^ row, fpPair (s.T d (twIndex row mi)) = twiddleW row d mi

/-- Rows follow one another in a table. -/
theorem twIndex_lt_of_row_lt {row row' mi mi' : Nat} (h : row < row') (hmi : mi < 2 ^ row) (hmi' : mi' < 2 ^ row') :
    twIndex row mi < twIndex row' mi' := by
  have hpow : 2 ^ (row + 1) ≤ 2 ^ row' := Nat.pow_le_pow_right Nat.two_pos h
  have := (twIndex_bounds hmi).2
  have := (twIndex_bounds hmi').1
  omega

theorem RowsFilled.initRow_same {n : Nat} {d : Dir} {s : State} (h : RowsFilled n d s) :
    RowsFilled (n + 1) d (effects (initRow n d) s) := by
  have hrow := rowBuilt_initRow n d s
  intro row hlt mi hmi
  by_cases hn : row = n
  · subst hn
    exact hrow.filled mi hmi
  · rw [hrow.frame d _ (.inr fun mi' hmi' => (twIndex_lt_of_row_lt (by omega) hmi hmi').ne)]
    exact h row (by omega) mi hmi

theorem RowsFilled.initRow_other {n row : Nat} {d d' : Dir} {s : State} (h : RowsFilled n d s) (hd : d ≠ d') :
    RowsFilled n d (effects (initRow row d') s) := by
  intro r hr mi hmi
  rw [(rowBuilt_initRow row d' s).frame d _ (.inl hd)]
  exact h r hr mi hmi

theorem rowsFilled_initRows (n : Nat) (d : Dir) (s : State) :
    RowsFilled n d (effects ((List.range n).flatMap fun row => initRow row .forward ++ initRow row .inverse) s) := by
  induction n with
  | zero => exact fun row hrow => absurd hrow (Nat.not_lt_zero row)
  | succ n ih =>
    rw [List.range_succ, List.flatMap_append, effects_append, List.flatMap_singleton, effects_append]
    cases d with
    | forward => exact ih.initRow_same.initRow_other (by decide)
    | inverse => exact (ih.initRow_other (by decide)).initRow_same

/-- INIT of an admitted size makes the tables hold what its tag says, whatever they held before (10_state.md R23). -/
theorem tablesMatchTag_seqInit {c : Config} {size : Nat} (hsize : sizeOk c size = true) (s : State) :
    TablesMatchTag (effects (seqInit size) s) := by
  intro _ row hrow d mi hmi
  rw [seqInit, effects_append, effects_cons, effects_nil, applyOp, tset] at hrow ⊢
  rw [State.setTag_tblSize, toNat_tblSize_of_sizeOk hsize] at hrow
  rw [State.T_setTag]
  exact rowsFilled_initRows (log2 size) d s row hrow mi hmi

/-! ### Every other command -/

/-- Work on the signal writes neither the tables nor the tag (42_twiddle.md R125). -/
theorem applyOp_tables {c : Config} {op : MicroOp} (h : op.isSignalWork c = true) (s : State) :
    (applyOp op s).twtF = s.twtF ∧ (applyOp op s).twtI = s.twtI ∧ (applyOp op s).tblValid = s.tblValid ∧
      (applyOp op s).tblSize = s.tblSize := by
  cases op with
  | twstore d e => simp [MicroOp.isSignalWork] at h
  | tset size => simp [MicroOp.isSignalWork] at h
  | rdc d => cases d <;> exact ⟨rfl, rfl, rfl, rfl⟩
  | _ => exact ⟨rfl, rfl, rfl, rfl⟩

theorem effects_tables {c : Config} {ops : List MicroOp} (h : ∀ op ∈ ops, op.isSignalWork c = true) (s : State) :
    (effects ops s).twtF = s.twtF ∧ (effects ops s).twtI = s.twtI ∧ (effects ops s).tblValid = s.tblValid ∧
      (effects ops s).tblSize = s.tblSize := by
  induction ops generalizing s with
  | nil => exact ⟨rfl, rfl, rfl, rfl⟩
  | cons op ops ih =>
    have hhead := applyOp_tables (h op (by simp)) s
    have htail := ih (fun o ho => h o (by simp [ho])) (applyOp op s)
    simpa [hhead] using htail

/-- The match is about the tables, the tag and the reset draws alone. -/
theorem TablesMatchTag.congr {s t : State} (h : TablesMatchTag s) (hf : t.twtF = s.twtF) (hi : t.twtI = s.twtI)
    (he : t.epoch = s.epoch) (hv : t.tblValid = s.tblValid) (hs : t.tblSize = s.tblSize) : TablesMatchTag t := by
  intro hvalid row hrow d mi hmi
  rw [State.T_congr hf hi he]
  exact h (hv ▸ hvalid) row (hs ▸ hrow) d mi hmi

/-- Every plan leaves the tables as their tag says. -/
theorem TablesMatchTag.plan {c : Config} {tag : TableTag} {p : Plan} {s : State} (h : TablesMatchTag s)
    (hp : IsPlan c tag p) : TablesMatchTag (effects p.ops s) := by
  obtain hsignal | ⟨size, hsize, hinit⟩ := hp.signalOrInit
  · obtain ⟨hf, hi, hv, hs⟩ := effects_tables hsignal s
    exact h.congr hf hi (effects_frame p.ops s).2.1 hv hs
  · exact hinit ▸ tablesMatchTag_seqInit hsize s

/-! ### Steps -/

/-- `t` is `s` but for the control fields, which no micro-operation reads (45_command_control.md R179). -/
def SameData (s t : State) : Prop :=
  ∃ busy done err cmd pend inbox resp,
    t = { s with busy := busy, done := done, err := err, cmd := cmd, pend := pend, inbox := inbox, resp := resp }

theorem sameData_setInbox (s : State) (es : List Event) : SameData s (s.setInbox es) := ⟨_, _, _, _, _, _, _, rfl⟩
theorem sameData_setPend (s : State) (ops : List MicroOp) : SameData s (s.setPend ops) := ⟨_, _, _, _, _, _, _, rfl⟩
theorem sameData_respond (s : State) (r : Response) : SameData s (s.respond r) := ⟨_, _, _, _, _, _, _, rfl⟩

theorem SameData.applyOp {s t : State} (h : SameData s t) (op : MicroOp) : SameData (applyOp op s) (applyOp op t) := by
  obtain ⟨busy, done, err, cmd, pend, inbox, resp, rfl⟩ := h
  cases op with
  | finish code => exact ⟨false, true, code.bits, cmd, pend, inbox, resp, rfl⟩
  | twstore d e => cases d <;> exact ⟨busy, done, err, cmd, pend, inbox, resp, rfl⟩
  | rdc d => cases d <;> exact ⟨busy, done, err, cmd, pend, inbox, resp, rfl⟩
  | _ => exact ⟨busy, done, err, cmd, pend, inbox, resp, rfl⟩

theorem SameData.effects {s t : State} (h : SameData s t) (ops : List MicroOp) :
    SameData (effects ops s) (effects ops t) := by
  induction ops generalizing s t with
  | nil => exact h
  | cons op ops ih => exact ih (h.applyOp op)

theorem TablesMatchTag.sameData {s t : State} (h : TablesMatchTag s) (hd : SameData s t) : TablesMatchTag t := by
  obtain ⟨busy, done, err, cmd, pend, inbox, resp, rfl⟩ := hd
  exact h.congr rfl rfl rfl rfl rfl

theorem TablesSettle.sameData {s t : State} (h : TablesSettle s) (hd : SameData s t) (hp : t.pend = s.pend) :
    TablesSettle t := by
  unfold TablesSettle
  rw [hp]
  exact TablesMatchTag.sameData h (hd.effects s.pend)

/-- With nothing pending, settled tables are tables that match now. -/
theorem tablesSettle_iff_of_pend_nil {s : State} (hp : s.pend = []) : TablesSettle s ↔ TablesMatchTag s := by
  rw [TablesSettle, hp, effects_nil]

theorem tablesMatchTag_of_invalid {s : State} (h : s.tblValid = false) : TablesMatchTag s :=
  fun hv => absurd hv (by simp [h])

/-- In an idle safe state the tables match their tag now. -/
theorem TablesSettle.idle {s : State} (h : TablesSettle s) (hs : SafeState s) (hb : s.busy = false) :
    TablesMatchTag s := (tablesSettle_iff_of_pend_nil (hs.idlePend hb)).1 h

theorem TablesSettle.command {w : Reg32} {p : Plan} {s t : State} (h : TablesSettle s) (hs : SafeState s)
    (hp : IsPlan s.cfg s.tag p) (hstep : command w p s = .next t) : TablesSettle t := by
  obtain ⟨-, rfl⟩ | ⟨hb, -, rfl⟩ := command_cases hstep
  · exact h.sameData (sameData_respond s .err) rfl
  · have hmatch : TablesMatchTag (s.accept w p.expand) := (h.idle hs hb).congr rfl rfl rfl rfl rfl
    exact (tablesSettle_iff_of_pend_nil rfl).2 ((hmatch.plan hp).congr rfl rfl rfl rfl rfl)

/-- After acceptance the tables settle: the plan keeps the match, and its FINISH does not touch it. -/
theorem tablesSettle_accept {c : Config} {tag : TableTag} {p : Plan} {s : State} (h : TablesMatchTag s) (w : Reg32)
    (hp : IsPlan c tag p) : TablesSettle (s.accept w p.expand) := by
  have hmatch : TablesMatchTag (s.accept w p.expand) := h.congr rfl rfl rfl rfl rfl
  rw [TablesSettle, State.accept_pend, Plan.expand, effects_append]
  exact (hmatch.plan hp).congr rfl rfl rfl rfl rfl

theorem TablesSettle.hostTurn {s : State} (h : TablesSettle s) (hs : SafeState s) (x : Txn) :
    TablesSettle (hostTurn x s) := by
  obtain ht | ⟨sp, i, -, ht⟩ | ⟨w, -, hb, ht⟩ | ⟨i, v, -, -, hb, ht⟩ := hostTurn_cases x s <;> rw [ht]
  · exact h.sameData (sameData_respond s .err) rfl
  · exact h.sameData (sameData_respond s _) rfl
  · exact tablesSettle_accept (h.idle hs hb) w (isPlan_planWord s.cfg s.tag w)
  · have hpend : ((s.setD i v).respond .ok).pend = [] := hs.idlePend hb
    exact (tablesSettle_iff_of_pend_nil hpend).2 ((h.idle hs hb).congr rfl rfl rfl rfl rfl)

/-- A turn of SEQ moves its micro-operation from the pending list into the state: what the list leads to is the same. -/
theorem TablesSettle.seqStep {s t : State} (h : TablesSettle s) (hstep : seqStep s = .ok t) : TablesSettle t := by
  obtain ⟨-, rfl⟩ | ⟨op, rest, -, hpend, -, rfl⟩ := seqStep_cases hstep
  · exact h
  · rw [TablesSettle, hpend] at h
    rw [TablesSettle, applyOp_pend, State.setPend_pend, ← effects_cons]
    exact h.sameData ((sameData_setPend s rest).effects (op :: rest))

theorem tablesSettle_resetNow (s : State) : TablesSettle s.resetNow :=
  (tablesSettle_iff_of_pend_nil rfl).2 (tablesMatchTag_of_invalid rfl)

/-- Settles O50: each turn that a step can take keeps the tables settled. -/
theorem tablesSettleIsKept : Obligations.TablesSettleIsKept := by
  intro s t hs h hstep
  obtain ⟨es, hturn⟩ := step_effect_cases hstep
  have hsafe := hs.setInbox es
  have hsettle := h.sameData (sameData_setInbox s es) rfl
  obtain ⟨w, p, hp, hcmd⟩ | ⟨x, rfl⟩ | hseq | ⟨-, rfl⟩ | rfl := hturn
  · exact hsettle.command hsafe hp hcmd
  · exact hsettle.hostTurn hsafe x
  · exact hsettle.seqStep hseq
  · exact tablesSettle_resetNow _
  · exact hsettle

end Sys2Proof.Machine
end

section
/-! PROOFS. Right after reset (10_state.md R34). -/

namespace Sys2Proof.Machine

theorem safeState_reset : SafeState State.reset where
  mem := rfl
  busyNotDone := fun _ => rfl
  errNeedsDone := fun _ => rfl
  errCode := Nat.zero_le 3
  tagSize := fun h => nomatch h
  tagEmpty := fun _ => rfl
  idlePend := fun _ => rfl
  busyPend := fun h => nomatch h

/-- Settles O47: nothing runs, no table is valid. -/
theorem resetIsSafe : Obligations.ResetIsSafe :=
  ⟨safeState_reset, (tablesSettle_iff_of_pend_nil rfl).2 (tablesMatchTag_of_invalid rfl)⟩

/-- Settles O54, by evaluating the reset state. -/
theorem resetRegisterValues : Obligations.ResetRegisterValues := by
  unfold Obligations.ResetRegisterValues
  decide

end Sys2Proof.Machine
end

section
/-! PROOFS. The host port (20_memory.md R42 to R48): what it refuses, and what the transactions it allows do. -/

namespace Sys2Proof.Machine

/-- A transaction is refused by none of the three tests of R42. -/
theorem portErr_eq_none_iff {x : Txn} {s : State} :
    portErr x s = none ↔ x.target.2 < spaceSize s.cfg x.target.1 ∧ (s.busy = true → x.allowedBusy = true) ∧
      x.writesReadOnly = false := by
  unfold portErr
  split
  · next hrange => simpa using fun hlt => absurd hrange (Nat.not_le.2 hlt)
  · split
    · simp_all
    · split <;> simp_all

theorem allowedBusy_readCsr_iff {i : Nat} : (Txn.read .csr i).allowedBusy = true ↔ i = 1 ∨ i = 3 := by
  unfold Txn.allowedBusy
  split <;> simp_all

/-- The three tests, read off for each kind of transaction, leave what `portAllows` lists. -/
theorem portErr_eq_none_iff_portAllows {x : Txn} {s : State} : portErr x s = none ↔ portAllows s x := by
  rw [portErr_eq_none_iff]
  cases x with
  | read sp i =>
    cases sp with
    | csr => simp [portAllows, Txn.target, spaceSize, Txn.writesReadOnly, allowedBusy_readCsr_iff]
    | dmem | twt => simp [portAllows, Txn.target, spaceSize, Txn.writesReadOnly, Txn.allowedBusy]
  | writeCsr i w =>
    have hzero : i < 4 ∧ s.busy = false ∧ i = 0 ↔ i = 0 ∧ s.busy = false :=
      ⟨fun ⟨_, hb, hi⟩ => ⟨hi, hb⟩, fun ⟨hi, hb⟩ => ⟨by omega, hb, hi⟩⟩
    simpa [portAllows, Txn.target, spaceSize, Txn.writesReadOnly, Txn.allowedBusy] using hzero
  | writeDmem i v => simp [portAllows, Txn.target, spaceSize, Txn.writesReadOnly, Txn.allowedBusy]
  | writeTwt i v => simp [portAllows, Txn.writesReadOnly]

theorem hostTurn_of_not_allows {x : Txn} {s : State} (h : ¬ portAllows s x) : hostTurn x s = s.respond .err := by
  obtain ⟨e, he⟩ := Option.ne_none_iff_exists'.1 (mt portErr_eq_none_iff_portAllows.1 h)
  exact hostTurn_refused he

theorem hostTurn_read {s : State} {sp : Space} {i : Nat} (h : portAllows s (.read sp i)) :
    hostTurn (.read sp i) s = s.respond (portRead s sp i) := by
  simp [hostTurn, portErr_eq_none_iff_portAllows.2 h]

theorem hostTurn_writeCsr {s : State} {i : Nat} {w : Reg32} (h : portAllows s (.writeCsr i w)) :
    hostTurn (.writeCsr i w) s = s.accept w (expand s.cfg s.tag w) := by
  simp [hostTurn, portErr_eq_none_iff_portAllows.2 h]

theorem hostTurn_writeDmem {s : State} {i : Nat} {v : Word} (h : portAllows s (.writeDmem i v)) :
    hostTurn (.writeDmem i v) s = (s.setD i v).respond .ok := by
  simp [hostTurn, portErr_eq_none_iff_portAllows.2 h]

theorem portRead_ne_err (s : State) (sp : Space) (i : Nat) : portRead s sp i ≠ .err := by
  cases sp <;> simp [portRead]

/-- Settles O37: a refused transaction answers Err alone; an allowed one answers Ok or the data it reads. -/
theorem portRefusesExactlyWhen : Obligations.PortRefusesExactlyWhen := by
  intro s x
  refine ⟨hostTurn_of_not_allows, fun h => ?_⟩
  cases x with
  | read sp i => simp [hostTurn_read h, portRead_ne_err]
  | writeCsr i w => simp [hostTurn_writeCsr h]
  | writeDmem i v => simp [hostTurn_writeDmem h]
  | writeTwt i v => exact h.elim

/-! ### Reads -/

/-- The lower half of TWT space is the forward table, entry by entry, real part first (20_memory.md R43). -/
theorem twtRead_forward (s : State) {t : Nat} (h : t < 2 * s.cfg.twtEntries) :
    twtRead s t = if t % 2 = 0 then (s.T .forward (t / 2)).1 else (s.T .forward (t / 2)).2 := by
  simp [twtRead, Nat.div_eq_of_lt h, Nat.mod_eq_of_lt h]

/-- The upper half is the inverse table in the same order (20_memory.md R43). -/
theorem twtRead_inverse (s : State) {t : Nat} (h : t < 2 * s.cfg.twtEntries) :
    twtRead s (2 * s.cfg.twtEntries + t) = if t % 2 = 0 then (s.T .inverse (t / 2)).1 else (s.T .inverse (t / 2)).2 := by
  have hdiv : (2 * s.cfg.twtEntries + t) / (2 * s.cfg.twtEntries) = 1 := by
    rw [Nat.add_div_left _ (by omega), Nat.div_eq_of_lt h]
  simp [twtRead, hdiv, Nat.mod_eq_of_lt h]

/-- Settles O38: an allowed read answers `portRead`, which in TWT space is the linear view. -/
theorem portReadsReturnTheElement : Obligations.PortReadsReturnTheElement := by
  refine ⟨fun s hb => ⟨hostTurn_read ⟨by decide, by simp [hb]⟩, hostTurn_read ⟨by decide, by simp [hb]⟩⟩,
    fun s => ⟨hostTurn_read ⟨by decide, by simp⟩, hostTurn_read ⟨by decide, by simp⟩⟩,
    fun s i hb hi => hostTurn_read ⟨hi, hb⟩, fun s e hb he => ?_⟩
  have hread : ∀ t < 4 * s.cfg.twtEntries, hostTurn (.read .twt t) s = s.respond (.word (twtRead s t)) :=
    fun t ht => hostTurn_read ⟨ht, hb⟩
  have hodd : (2 * e + 1) / 2 = e := by omega
  refine ⟨?_, ?_, ?_, ?_⟩
  · rw [hread _ (by omega), twtRead_forward s (by omega)]
    simp [State.respond]
  · rw [hread _ (by omega), twtRead_forward s (by omega)]
    simp [State.respond, hodd]
  · rw [hread _ (by omega), twtRead_inverse s (by omega)]
    simp [State.respond]
  · rw [hread _ (by omega), Nat.add_assoc, twtRead_inverse s (by omega)]
    simp [State.respond, hodd]

/-- Settles O39, by the laws of a DMEM write. -/
theorem portWriteSetsOneWord : Obligations.PortWriteSetsOneWord := by
  intro s i v hb hi
  refine ⟨_, hostTurn_writeDmem ⟨hi, hb⟩, by simp, fun a ha => ?_, rfl⟩
  rw [State.D_respond, State.D_setD_ne s ha]

end Sys2Proof.Machine
end

section
/-! PROOFS. From a safe state no step ends in a fault (20_memory.md R47, 45_command_control.md R177). -/

namespace Sys2Proof.Machine

/-- A command never faults: while busy it is refused, else every index of its plan exists. -/
theorem exists_command_next (w : Reg32) {p : Plan} {s : State} (hp : IsPlan s.cfg s.tag p) :
    ∃ t, command w p s = .next t := by
  cases hb : s.busy with
  | true => exact ⟨_, command_busy hb⟩
  | false => exact ⟨_, command_idle hb fun op hop => MicroOp.inRange_of_isWork (hp.isWork hop)⟩

/-- The next micro-operation of a pending list of a running command exists and has existing indices. -/
theorem pendOk_head {c : Config} {ops : List MicroOp} (h : pendOk c ops) :
    ∃ op rest, ops = op :: rest ∧ op.inRange c = true := by
  cases ops with
  | nil =>
    obtain ⟨work, code, heq, -⟩ := h
    simp at heq
  | cons op rest =>
    refine ⟨op, rest, rfl, ?_⟩
    obtain ⟨code, rfl, -⟩ | ⟨hw, -⟩ := pendOk_cons h
    · rfl
    · exact MicroOp.inRange_of_isWork hw

theorem exists_seqStep_ok {s : State} (hs : SafeState s) : ∃ t, seqStep s = .ok t := by
  cases hb : s.busy with
  | false => exact ⟨s, seqStep_idle hb⟩
  | true =>
    obtain ⟨op, rest, hpend, hr⟩ := pendOk_head (hs.busyPend hb)
    exact ⟨applyOp op (s.setPend rest), by rw [seqStep_cons hb hpend, perform_eq]; exact if_pos hr⟩

/-- Settles O49: the only turns that could fault are a command and a turn of SEQ, and neither does. -/
theorem safeStateNeverStops : Obligations.SafeStateNeverStops := by
  intro s hs
  obtain ⟨turn, u, hf⟩ : ∃ turn u, fetch s = (turn, u) := ⟨_, _, rfl⟩
  obtain ⟨⟨es, rfl⟩, -⟩ := fetch_cases hf
  unfold step
  rw [hf]
  cases turn with
  | command i => simpa only [exec_eq] using exists_command_next (encode i) (.inr ⟨i, rfl⟩)
  | illegal w => exact exists_command_next w (.inl rfl)
  | port x => exact ⟨_, rfl⟩
  | seq =>
    obtain ⟨t, ht⟩ := exists_seqStep_ok (hs.setInbox es)
    exact ⟨t, by simp [ht, toOutcome]⟩
  | reset => exact ⟨_, rfl⟩
  | idle => exact ⟨_, rfl⟩

end Sys2Proof.Machine
end

section
/-! PROOFS. The DMEM words of a command (20_memory.md R55): what a plan is made of, which words its micro-operations
name, and that words they do not name are neither read nor written. -/

namespace Sys2Proof.Machine

/-! ### What each plan is -/

/-- The micro-operations of a command that works on a signal of `2 * 2^m` words. -/
inductive IsSignalSeq (m : Nat) : List MicroOp → Prop
  | permute : IsSignalSeq m (seqPermute (2 ^ m))
  | core (d : Dir) (twm : TwMode) : IsSignalSeq m (seqCore (2 ^ m) d twm)
  | real (d : Dir) (twm : TwMode) : IsSignalSeq m (seqReal (2 * 2 ^ m) d twm)

/-- A plan for a signal of `len` words: it performs nothing, or, the length admitted, its sequence without an error. -/
def Plan.OnSignal (c : Config) (len : Nat) (p : Plan) : Prop :=
  p.ops = [] ∨ p.code = .ok ∧ ∃ m ≤ c.logn, len = 2 * 2 ^ m ∧ IsSignalSeq m p.ops

section Plans
variable (c : Config) (tag : TableTag) (len : Nat) (d : Dir) (twm : TwMode)

theorem onSignal_planPermute : (planPermute c len).OnSignal c len := by
  unfold planPermute
  split
  · next hlen =>
    obtain ⟨m, hm, rfl⟩ := lenOk_iff.1 hlen
    rw [Nat.mul_div_cancel_left _ Nat.two_pos]
    exact .inr ⟨rfl, m, hm, rfl, .permute⟩
  · exact .inl rfl

theorem onSignal_planXform : (planXform c tag len d twm).OnSignal c len := by
  unfold planXform
  split
  · next hlen =>
    obtain ⟨m, hm, rfl⟩ := lenOk_iff.1 hlen
    rw [Nat.mul_div_cancel_left _ Nat.two_pos]
    split
    · exact .inr ⟨rfl, m, hm, rfl, .core d twm⟩
    · exact .inl rfl
  · exact .inl rfl

theorem onSignal_planRxform : (planRxform c tag len d twm).OnSignal c len := by
  unfold planRxform
  split
  · next hlen =>
    obtain ⟨m, hm, rfl⟩ := lenOk_iff.1 hlen
    split
    · exact .inr ⟨rfl, m, hm, rfl, .real d twm⟩
    · exact .inl rfl
  · exact .inl rfl

/-- Everything a command's plan can be: nothing performed, INIT's sequence, or a sequence on the signal. -/
theorem planOf_cases (i : Instr) :
    (planOf c tag i).ops = [] ∨ (planOf c tag i).code = .ok ∧
      ((∃ size, i = .init size ∧ (planOf c tag i).ops = seqInit size) ∨
        ∃ m ≤ c.logn, signalWords i = 2 * 2 ^ m ∧ IsSignalSeq m (planOf c tag i).ops) := by
  have hsignal {len : Nat} {p : Plan} {q : Prop} (h : p.OnSignal c len) :=
    h.imp_right fun hok => hok.imp_right (Or.inr (a := q))
  cases i with
  | nop => exact .inl rfl
  | init size =>
    rw [planOf, planInit]
    split
    · exact .inr ⟨rfl, .inl ⟨size, rfl, rfl⟩⟩
    · exact .inl rfl
  | permute len => exact hsignal (onSignal_planPermute c len)
  | xformFR len | xformIR len | xformFT len | xformIT len => exact hsignal (onSignal_planXform c tag len _ _)
  | rxformFR len | rxformIR len | rxformFT len | rxformIT len => exact hsignal (onSignal_planRxform c tag len _ _)

end Plans

/-! ### The words of a micro-operation -/

/-- The DMEM words a micro-operation reads or writes (30_encoding.md R68). -/
def MicroOp.words : MicroOp → List Nat
  | .swapc a b => [2 * a, 2 * a + 1, 2 * b, 2 * b + 1]
  | .bfly k j => [k, k + 1, j, j + 1]
  | .scale i _ => [i]
  | .rpair j _ n => [2 * j, 2 * j + 1, n - 2 * j, n - 2 * j + 1]
  | .rdc _ => [0, 1]
  | _ => []

/-- Every DMEM word of every micro-operation lies below word `n`. -/
def WordsBelow (n : Nat) (ops : List MicroOp) : Prop := ∀ op ∈ ops, ∀ a ∈ op.words, a < n

/-- Where every index exists (20_memory.md R47), every word does. -/
theorem lt_dmemWords_of_inRange {c : Config} {op : MicroOp} (h : op.inRange c = true) :
    ∀ a ∈ op.words, a < c.dmemWords := by
  intro a ha
  cases op with
  | swapc _ _ | bfly _ _ | rpair _ _ _ | scale _ _ | rdc _ =>
    simp only [MicroOp.inRange, Bool.and_eq_true, decide_eq_true_eq] at h
    simp only [MicroOp.words, List.mem_cons, List.not_mem_nil, or_false] at ha
    omega
  | _ => simp [MicroOp.words] at ha

variable {c : Config} {m n : Nat} {ops : List MicroOp} {op : MicroOp}

theorem IsSignalSeq.isSignalWork (h : IsSignalSeq m ops) (hm : m ≤ c.logn) (hop : op ∈ ops) :
    op.isSignalWork c = true := by
  cases h with
  | permute => exact isSignalWork_of_mem_seqPermute hm hop
  | core d twm => exact isSignalWork_of_mem_seqCore hm hop
  | real d twm => exact isSignalWork_of_mem_seqReal hm hop

/-- A signal of one sample: RDC and SCALE stay in its two words, and there is no other work (44_realfft.md R154). -/
theorem IsSignalSeq.wordsBelow_two (h : IsSignalSeq 0 ops) : WordsBelow 2 ops := by
  unfold WordsBelow
  cases h with
  | permute => decide
  | core d twm => cases d <;> cases twm <;> decide
  | real d twm => cases d <;> cases twm <;> decide

/-- No work leaves the signal: a signal of two or more samples fills the DMEM of the smallest block that admits it, and in
that block every index of its sequence exists too. -/
theorem IsSignalSeq.wordsBelow (h : IsSignalSeq m ops) (hm : m ≤ c.logn) : WordsBelow (2 * 2 ^ m) ops := by
  cases m with
  | zero => exact h.wordsBelow_two
  | succ k =>
    have hk : k < 22 := by have := (Config.logn_range c).2; omega
    intro op hop
    have hwork : op.isSignalWork ⟨⟨k, hk⟩⟩ = true := h.isSignalWork (Nat.le_refl (k + 1)) hop
    exact lt_dmemWords_of_inRange (MicroOp.inRange_of_isWork (MicroOp.isWork_of_isSignalWork hwork))

theorem words_of_mem_seqTwiddle {s mi : Nat} {d : Dir} {twm : TwMode} (h : op ∈ seqTwiddle s mi d twm) :
    op.words = [] := by
  cases twm with
  | recurrence =>
    rw [seqTwiddle] at h
    split at h <;> obtain rfl := List.mem_singleton.1 h <;> rfl
  | table =>
    obtain rfl := List.mem_singleton.1 h
    rfl

theorem words_of_mem_initRow {s : Nat} {d : Dir} (h : op ∈ initRow s d) : op.words = [] := by
  obtain ⟨mi, -, h⟩ := List.mem_flatMap.1 h
  rcases List.mem_append.1 h with h | h
  · exact words_of_mem_seqTwiddle h
  · obtain rfl := List.mem_singleton.1 h
    rfl

/-- INIT has no part of DMEM (42_twiddle.md R119). -/
theorem words_of_mem_seqInit {size : Nat} (h : op ∈ seqInit size) : op.words = [] := by
  rcases List.mem_append.1 h with h | h
  · obtain ⟨s, -, h⟩ := List.mem_flatMap.1 h
    rcases List.mem_append.1 h with h | h <;> exact words_of_mem_initRow h
  · obtain rfl := List.mem_singleton.1 h
    rfl

/-- A command's work stays in its signal (20_memory.md R55). -/
theorem wordsBelow_planOf (c : Config) (tag : TableTag) (i : Instr) : WordsBelow (signalWords i) (planOf c tag i).ops := by
  obtain hnil | ⟨-, ⟨size, -, hinit⟩ | ⟨m, hm, hlen, hseq⟩⟩ := planOf_cases c tag i
  · exact hnil ▸ nofun
  · intro op hop
    simp [words_of_mem_seqInit (hinit ▸ hop)]
  · exact hlen ▸ hseq.wordsBelow hm

/-- A command that reports an error performs nothing (45_command_control.md R171). -/
theorem planOf_ops_of_code_ne_ok {c : Config} {tag : TableTag} {i : Instr} (h : (planOf c tag i).code ≠ .ok) :
    (planOf c tag i).ops = [] := (planOf_cases c tag i).resolve_right fun hok => h hok.1

/-- A command other than INIT writes neither the tables nor the tag (42_twiddle.md R125). -/
theorem isSignalWork_of_mem_planOf {c : Config} {tag : TableTag} {i : Instr} (hi : ∀ size, i ≠ .init size)
    (hop : op ∈ (planOf c tag i).ops) : op.isSignalWork c = true := by
  obtain hnil | ⟨-, ⟨size, rfl, -⟩ | ⟨m, hm, -, hseq⟩⟩ := planOf_cases c tag i
  · simp [hnil] at hop
  · exact absurd rfl (hi size)
  · exact hseq.isSignalWork hm hop

/-! ### Words that are not named are not written -/

theorem D_applyOp_of_not_mem_words {a : Nat} (h : a ∉ op.words) (s : State) : (applyOp op s).D a = s.D a := by
  cases op with
  | swapc _ _ | bfly _ _ | rpair _ _ _ =>
    simp only [MicroOp.words, List.mem_cons, List.not_mem_nil, not_or] at h
    simp [applyOp, swapc, bfly, rpair, State.D_setD, h]
  | scale i r =>
    simp only [MicroOp.words, List.mem_singleton] at h
    simp [applyOp, scale, State.D_setD, h]
  | rdc d =>
    simp only [MicroOp.words, List.mem_cons, List.not_mem_nil, not_or] at h
    cases d <;> simp [applyOp, rdc, State.D_setD, h]
  | _ => simp [applyOp, twseed, twstep, twload, twstore, tset]

theorem D_effects_of_wordsBelow {a : Nat} (h : WordsBelow n ops) (ha : n ≤ a) (s : State) :
    (effects ops s).D a = s.D a := by
  induction ops generalizing s with
  | nil => rfl
  | cons op ops ih =>
    obtain ⟨hop, hops⟩ := List.forall_mem_cons.1 h
    rw [effects_cons, ih hops, D_applyOp_of_not_mem_words fun hmem => absurd (hop a hmem) (Nat.not_lt.2 ha)]

theorem ErrCode.bits_ne_zero_iff {code : ErrCode} : code.bits ≠ 0 ↔ code ≠ .ok := by cases code <;> decide

/-- Settles O34: the plan's words lie in the signal, only INIT's plan writes the tables, and a plan with an error code
performs nothing. -/
theorem commandFrame : Obligations.CommandFrame := by
  intro i s t hb h
  rw [exec_eq] at h
  obtain ⟨hbusy, -⟩ | ⟨-, -, rfl⟩ := command_cases h
  · simp [hb] at hbusy
  · obtain ⟨hcfg, hepoch, hcmd, -, hinbox, hresp⟩ :=
      effects_frame (planOf s.cfg s.tag i).ops (s.accept (encode i) (planOf s.cfg s.tag i).expand)
    refine ⟨fun a ha => ?_, fun hi => ?_, fun herr => ?_, hcmd, rfl, rfl, rfl, hresp, hcfg, hepoch, hinbox⟩
    · simpa using D_effects_of_wordsBelow (wordsBelow_planOf s.cfg s.tag i) ha (s.accept (encode i) _)
    · exact effects_tables (fun op => isSignalWork_of_mem_planOf hi) _
    · have hops := planOf_ops_of_code_ne_ok (ErrCode.bits_ne_zero_iff.1 herr)
      rw [hops]
      rfl

/-! ### Words that are not named are not read -/

/-- `t` is `s` with other DMEM words from `n` on. -/
def SameButWordsFrom (n : Nat) (s t : State) : Prop :=
  ∃ m : Mem Word, t = { s with dmem := m } ∧ ∀ a < n, t.D a = s.D a

section SameButWordsFrom
variable {s t : State}

theorem SameButWordsFrom.setD (h : SameButWordsFrom n s t) (i : Nat) (v : Word) :
    SameButWordsFrom n (s.setD i v) (t.setD i v) := by
  obtain ⟨m, rfl, hD⟩ := h
  exact ⟨Mem.put m i v, rfl, fun a ha => by simp [State.D_setD, hD a ha]⟩

/-- An update that neither reads nor writes DMEM keeps the relation. -/
theorem SameButWordsFrom.map (h : SameButWordsFrom n s t) {f : State → State}
    (hf : ∀ (u : State) (m : Mem Word), f { u with dmem := m } = { f u with dmem := m })
    (hdmem : ∀ u, (f u).dmem = u.dmem) (hepoch : ∀ u, (f u).epoch = u.epoch) : SameButWordsFrom n (f s) (f t) := by
  obtain ⟨m, rfl, hD⟩ := h
  refine ⟨m, hf s m, fun a ha => ?_⟩
  rw [State.D_congr (hdmem _) (hepoch _), State.D_congr (hdmem _) (hepoch _), hD a ha]

theorem SameButWordsFrom.useDraws (h : SameButWordsFrom n s t) (k : Nat) :
    SameButWordsFrom n (s.useDraws k) (t.useDraws k) :=
  h.map (f := fun u => u.useDraws k) (fun _ _ => rfl) (fun _ => rfl) (fun _ => rfl)

/-- The words a micro-operation reads are words it names, so both runs read and write the same values. -/
theorem SameButWordsFrom.applyOp (h : SameButWordsFrom n s t) (hop : ∀ a ∈ op.words, a < n) :
    SameButWordsFrom n (applyOp op s) (applyOp op t) := by
  have hread : ∀ a ∈ op.words, t.D a = s.D a := fun a ha => by
    obtain ⟨m, -, hD⟩ := h
    exact hD a (hop a ha)
  obtain ⟨hdraw, hwr, hwi⟩ : t.draw = s.draw ∧ t.wr = s.wr ∧ t.wi = s.wi := by
    obtain ⟨m, rfl, -⟩ := h
    exact ⟨rfl, rfl, rfl⟩
  cases op with
  | swapc a b =>
    simp only [MicroOp.words, List.forall_mem_cons] at hread
    simp only [Machine.applyOp, swapc, hread]
    exact (((h.setD _ _).setD _ _).setD _ _).setD _ _
  | bfly k j =>
    simp only [MicroOp.words, List.forall_mem_cons] at hread
    simp only [Machine.applyOp, bfly, hread, hdraw, hwr, hwi]
    exact ((((h.setD _ _).setD _ _).setD _ _).setD _ _).useDraws 10
  | scale i r =>
    simp only [MicroOp.words, List.forall_mem_cons] at hread
    simp only [Machine.applyOp, scale, hread, hdraw]
    exact (h.setD _ _).useDraws 1
  | rpair j d k =>
    simp only [MicroOp.words, List.forall_mem_cons] at hread
    simp only [Machine.applyOp, rpair, hread, hdraw, hwr, hwi]
    exact ((((h.setD _ _).setD _ _).setD _ _).setD _ _).useDraws 18
  | rdc d =>
    simp only [MicroOp.words, List.forall_mem_cons] at hread
    cases d <;> simp only [Machine.applyOp, rdc, hread, hdraw]
    · exact ((h.setD _ _).setD _ _).useDraws 2
    · exact ((h.setD _ _).setD _ _).useDraws 4
  | twload d e | twstore d e => cases d <;> exact h.map (fun _ _ => rfl) (fun _ => rfl) (fun _ => rfl)
  | _ => exact h.map (fun _ _ => rfl) (fun _ => rfl) (fun _ => rfl)

theorem SameButWordsFrom.effects (h : SameButWordsFrom n s t) (hops : WordsBelow n ops) :
    SameButWordsFrom n (effects ops s) (effects ops t) := by
  induction ops generalizing s t with
  | nil => exact h
  | cons op ops ih =>
    obtain ⟨hop, hops⟩ := List.forall_mem_cons.1 hops
    exact ih (h.applyOp hop) hops

end SameButWordsFrom

/-- A command whose work lies below word `n` gives the same next state but for the words from `n` on. -/
theorem command_sameButWordsFrom {w : Reg32} {p : Plan} {s s' t : State} (hp : WordsBelow n p.ops)
    (hs : SameButWordsFrom n s s') (hb : s.busy = false) (h : command w p s = .next t) :
    ∃ t', command w p s' = .next t' ∧ SameButWordsFrom n t t' := by
  obtain ⟨hbusy, -⟩ | ⟨-, hr, rfl⟩ := command_cases h
  · simp [hb] at hbusy
  · have hcontrol : s'.cfg = s.cfg ∧ s'.busy = s.busy := by obtain ⟨m, rfl, -⟩ := hs; exact ⟨rfl, rfl⟩
    refine ⟨_, command_idle (hcontrol.2.trans hb) (by rwa [hcontrol.1]), ?_⟩
    have haccept := hs.map (f := fun u => u.accept w p.expand) (fun _ _ => rfl) (fun _ => rfl) (fun _ => rfl)
    exact (haccept.effects hp).map (f := fun u => (u.complete p.code).setPend []) (fun _ _ => rfl) (fun _ => rfl)
      (fun _ => rfl)

/-- Settles O35: a command's work names words of its signal alone, and what it does not name it does not read. -/
theorem wordsBeyondTheSignalDoNotMatter : Obligations.WordsBeyondTheSignalDoNotMatter := by
  intro i s t m hb hagree h
  rw [exec_eq] at h
  obtain ⟨t', ht', m', heq, hD⟩ :=
    command_sameButWordsFrom (wordsBelow_planOf s.cfg s.tag i) ⟨m, rfl, hagree⟩ hb h
  exact ⟨t', by rw [exec_eq]; exact ht', hD, by rw [heq]⟩

end Sys2Proof.Machine
end

section
/-! PROOFS. The encoding of commands (30_encoding.md R61 to R69): a word's fields as parts of its number, and one
equivalence between a word and the command it decodes to, from which both round trips and the opcode map follow. -/

namespace Sys2Proof.Machine

/-! ### Fields as parts of the number -/

theorem getLsbD_eq {n : Nat} (v : BitVec n) (k : Nat) : v.getLsbD k = (v.toNat / 2 ^ k % 2 == 1) := by
  rw [← BitVec.testBit_toNat, Nat.testBit_eq_decide_div_mod_eq]
  rfl

theorem toNat_append_eq {m n : Nat} (x : BitVec m) (y : BitVec n) : (x ++ y).toNat = x.toNat * 2 ^ n + y.toNat := by
  rw [BitVec.toNat_append, ← Nat.shiftLeft_add_eq_or_of_lt y.isLt, Nat.shiftLeft_eq]

theorem toNat_extractLsb'_eq {n : Nat} (v : BitVec n) (lo len : Nat) :
    (v.extractLsb' lo len).toNat = v.toNat / 2 ^ lo % 2 ^ len := by
  rw [BitVec.extractLsb'_toNat, Nat.shiftRight_eq_div_pow]

theorem opcField_eq (w : Reg32) : opcField w = w.toNat % 16 := by simp [opcField]

theorem dirField_eq (w : Reg32) : dirField w = (w.toNat / 16 % 2 == 1) := getLsbD_eq w 4

theorem twmField_eq (w : Reg32) : twmField w = (w.toNat / 32 % 2 == 1) := getLsbD_eq w 5

theorem rsvField_eq (w : Reg32) : rsvField w = w.toNat / 64 % 4 := toNat_extractLsb'_eq w 6 2

theorem lenOf_eq (w : Reg32) : lenOf w = w.toNat / 256 := by
  have hlt := w.isLt
  exact (toNat_extractLsb'_eq w 8 24).trans (Nat.mod_eq_of_lt (by omega))

theorem toNat_mod_two_beq_one (n : Nat) : (n % 2 == 1).toNat = n % 2 := by
  obtain h | h := Nat.mod_two_eq_zero_or_one n <;> simp [h]

/-- The low byte put together from its fields (30_encoding.md R61). -/
theorem lowByte_eq_fields (w : Reg32) :
    w.toNat % 256 = opcField w + 16 * (dirField w).toNat + 32 * (twmField w).toNat + 64 * rsvField w := by
  rw [opcField_eq, dirField_eq, twmField_eq, rsvField_eq, toNat_mod_two_beq_one, toNat_mod_two_beq_one]
  omega

/-! ### The word of a command -/

theorem wellFormed_iff {i : Instr} : i.wellFormed = true ↔ i.lenField < 2 ^ 24 := by
  cases i <;> simp [Instr.wellFormed, Instr.lenField, lenFits]

theorem toNat_encode {i : Instr} (h : i.wellFormed = true) :
    (encode i).toNat = i.lenField * 2 ^ 8 + i.lowByte.toNat := by
  rw [encode, toNat_append_eq, BitVec.toNat_ofNat, Nat.mod_eq_of_lt (wellFormed_iff.1 h)]

@[simp] theorem toNat_lowByte_xformVariant (dir twm : Bool) (len : Nat) :
    (xformVariant dir twm len).lowByte.toNat = 3 + 16 * dir.toNat + 32 * twm.toNat := by
  cases dir <;> cases twm <;> rfl

@[simp] theorem lenField_xformVariant (dir twm : Bool) (len : Nat) : (xformVariant dir twm len).lenField = len := by
  cases dir <;> cases twm <;> rfl

@[simp] theorem toNat_lowByte_rxformVariant (dir twm : Bool) (len : Nat) :
    (rxformVariant dir twm len).lowByte.toNat = 4 + 16 * dir.toNat + 32 * twm.toNat := by
  cases dir <;> cases twm <;> rfl

@[simp] theorem lenField_rxformVariant (dir twm : Bool) (len : Nat) : (rxformVariant dir twm len).lenField = len := by
  cases dir <;> cases twm <;> rfl

/-! ### Decoding -/

/-- A word that decodes to `i` has the low byte and the `LEN` of `i`: the lines of `decode` fix every other field
(30_encoding.md R64). -/
theorem fields_of_decode {w : Reg32} {i : Instr} (h : decode w = .ok i) :
    w.toNat % 256 = i.lowByte.toNat ∧ w.toNat / 256 = i.lenField := by
  rw [lowByte_eq_fields, ← lenOf_eq]
  unfold decode at h
  split at h
  case isTrue => cases h
  case isFalse hrsv =>
    split at h
    case h_1 hopc | h_2 hopc | h_3 hopc =>
      split at h
      · cases h
      · cases h
        simp_all [Instr.lowByte, Instr.lenField]
    case h_4 hopc | h_5 hopc =>
      cases h
      simp_all
    case h_6 => cases h

/-- A word with the low byte and the `LEN` of `i` decodes to `i`: the low byte gives every field that `decode` tests. -/
theorem decode_of_fields {w : Reg32} {i : Instr} (hlow : w.toNat % 256 = i.lowByte.toNat)
    (hlen : w.toNat / 256 = i.lenField) : decode w = .ok i := by
  have hopc : opcField w = i.lowByte.toNat % 16 := by rw [opcField_eq]; omega
  have hdir : dirField w = (i.lowByte.toNat / 16 % 2 == 1) := by rw [dirField_eq]; congr 1; omega
  have htwm : twmField w = (i.lowByte.toNat / 32 % 2 == 1) := by rw [twmField_eq]; congr 1; omega
  have hrsv : rsvField w = i.lowByte.toNat / 64 := by rw [rsvField_eq]; omega
  rw [← lenOf_eq] at hlen
  unfold decode
  rw [hopc, hdir, htwm, hrsv, hlen]
  cases i <;> simp [Instr.lowByte, Instr.lenField, xformVariant, rxformVariant]

theorem decode_eq_ok_iff {w : Reg32} {i : Instr} :
    decode w = .ok i ↔ w.toNat % 256 = i.lowByte.toNat ∧ w.toNat / 256 = i.lenField :=
  ⟨fields_of_decode, fun ⟨hlow, hlen⟩ => decode_of_fields hlow hlen⟩

/-- Settles O1: the word of a well-formed command has that command's low byte and `LEN`. -/
theorem encodeThenDecodeIsIdentity : Obligations.EncodeThenDecodeIsIdentity := by
  intro i hwf
  have hbyte := i.lowByte.isLt
  have hword := toNat_encode hwf
  exact decode_eq_ok_iff.2 ⟨by omega, by omega⟩

/-- Settles O2: the low byte and `LEN` of the command are the whole word. -/
theorem decodeThenEncodeIsIdentity : Obligations.DecodeThenEncodeIsIdentity := by
  intro w i h
  obtain ⟨hlow, hlen⟩ := decode_eq_ok_iff.1 h
  have hlt := w.isLt
  have hwf : i.wellFormed = true := wellFormed_iff.2 (by omega)
  refine ⟨BitVec.eq_of_toNat_eq ?_, hwf⟩
  rw [toNat_encode hwf]
  omega

/-! ### Illegal words -/

/-- The lines of `decode` that answer `Illegal` (30_encoding.md R65). -/
theorem decode_error_iff {w : Reg32} :
    (∃ e, decode w = .error e) ↔
      rsvField w ≠ 0 ∨ 5 ≤ opcField w ∨ (opcField w ≤ 2 ∧ (dirField w = true ∨ twmField w = true)) ∨
        (opcField w = 0 ∧ lenOf w ≠ 0) := by
  unfold decode
  split
  case isTrue hrsv => simp [hrsv]
  case isFalse hrsv =>
    split
    case h_1 hopc | h_2 hopc | h_3 hopc => split <;> simp_all
    case h_4 hopc | h_5 hopc => simp_all
    case h_6 h0 h1 h2 h3 h4 =>
      simp only [imp_false] at h0 h1 h2 h3 h4
      have hopc : 5 ≤ opcField w := by omega
      simp [hopc]

/-- Settles O4: the conditions of `decode_error_iff`, read off the number. -/
theorem illegalWordsAreTheListedOnes : Obligations.IllegalWordsAreTheListedOnes := by
  intro w
  rw [decode_error_iff, rsvField_eq, opcField_eq, dirField_eq, twmField_eq, lenOf_eq, beq_iff_eq, beq_iff_eq]
  omega

/-! ### The opcode map -/

theorem row_of_ne_nop {i : Instr} (h : i ≠ .nop) : i.row = ⟨0x000000FF#32, 0#24 ++ i.lowByte⟩ := by
  cases i with
  | nop => exact absurd rfl h
  | _ => simp only [Instr.row, Instr.lowByte]; decide

/-- A row that fixes the low byte alone. -/
theorem matches_lowByte_iff {w : Reg32} {b : BitVec 8} :
    OpcodeRow.matches ⟨0x000000FF#32, 0#24 ++ b⟩ w = true ↔ w.toNat % 256 = b.toNat := by
  have hmask : w.toNat &&& (0x000000FF#32).toNat = w.toNat % 256 := Nat.and_two_pow_sub_one_eq_mod w.toNat 8
  have hvalue : (0#24 ++ b).toNat = b.toNat := (toNat_append_eq _ _).trans (Nat.zero_add _)
  rw [OpcodeRow.matches, beq_iff_eq, ← BitVec.toNat_inj, BitVec.toNat_and, hmask, hvalue]

/-- NOP's row fixes the whole word, every other row the low byte (30_encoding.md R66). -/
theorem matches_row_iff {w : Reg32} {i : Instr} :
    i.row.matches w = true ↔ w.toNat % 256 = i.lowByte.toNat ∧ (i = .nop → w.toNat / 256 = 0) := by
  by_cases hi : i = .nop
  · subst hi
    have hall : w &&& 0xFFFFFFFF#32 = w := BitVec.and_allOnes
    have hzero : w = 0#32 ↔ w.toNat = 0 := BitVec.toNat_inj.symm
    simp only [OpcodeRow.matches, Instr.row, Instr.lowByte, hall, beq_iff_eq, hzero, true_imp_iff]
    show w.toNat = 0 ↔ w.toNat % 256 = 0 ∧ w.toNat / 256 = 0
    omega
  · simp [row_of_ne_nop hi, matches_lowByte_iff, hi]

theorem row_mem_opcodeRows (i : Instr) : i.row ∈ opcodeRows := by
  cases i <;> simp [opcodeRows, Instr.row]

/-- Every row is the row of a command with any `LEN`, but for NOP's. -/
theorem exists_instr_of_mem_opcodeRows {r : OpcodeRow} (h : r ∈ opcodeRows) (len : Nat) :
    ∃ i : Instr, i.row = r ∧ (i ≠ .nop → i.lenField = len) := by
  simp only [opcodeRows, List.mem_cons, List.not_mem_nil, or_false] at h
  obtain rfl | rfl | rfl | rfl | rfl | rfl | rfl | rfl | rfl | rfl | rfl := h
  · exact ⟨.nop, rfl, fun hne => absurd rfl hne⟩
  · exact ⟨.init len, rfl, fun _ => rfl⟩
  · exact ⟨.permute len, rfl, fun _ => rfl⟩
  · exact ⟨.xformFR len, rfl, fun _ => rfl⟩
  · exact ⟨.xformIR len, rfl, fun _ => rfl⟩
  · exact ⟨.xformFT len, rfl, fun _ => rfl⟩
  · exact ⟨.xformIT len, rfl, fun _ => rfl⟩
  · exact ⟨.rxformFR len, rfl, fun _ => rfl⟩
  · exact ⟨.rxformIR len, rfl, fun _ => rfl⟩
  · exact ⟨.rxformFT len, rfl, fun _ => rfl⟩
  · exact ⟨.rxformIT len, rfl, fun _ => rfl⟩

theorem matches_row_of_decode {w : Reg32} {i : Instr} (h : decode w = .ok i) : i.row.matches w = true := by
  obtain ⟨hlow, hlen⟩ := decode_eq_ok_iff.1 h
  exact matches_row_iff.2 ⟨hlow, fun hi => by rw [hlen, hi]; rfl⟩

/-- A word that matches a row decodes to a command of that row. -/
theorem exists_decode_of_matches {w : Reg32} {r : OpcodeRow} (hr : r ∈ opcodeRows) (h : r.matches w = true) :
    ∃ i, decode w = .ok i ∧ i.row = r := by
  obtain ⟨i, rfl, hlen⟩ := exists_instr_of_mem_opcodeRows hr (w.toNat / 256)
  obtain ⟨hlow, hnop⟩ := matches_row_iff.1 h
  refine ⟨i, decode_eq_ok_iff.2 ⟨hlow, ?_⟩, rfl⟩
  by_cases hi : i = .nop
  · rw [hnop hi, hi]; rfl
  · exact (hlen hi).symm

/-- Settles O3: a word matches a row exactly when it decodes to a command of it, so no word matches two. -/
theorem opcodeMapIsTheCommandSet : Obligations.OpcodeMapIsTheCommandSet := by
  refine ⟨fun len => ⟨rfl, rfl, rfl, rfl, rfl, rfl, rfl, rfl, rfl, rfl, rfl⟩, rfl, row_mem_opcodeRows,
    fun w i h => ⟨matches_row_of_decode h, fun _ => (decode_eq_ok_iff.1 h).2.symm⟩, fun w => ⟨?_, fun hnone => ?_⟩,
    fun w r hr r' hr' h h' => ?_⟩
  · rintro ⟨e, he⟩ r hr
    refine Bool.eq_false_iff.2 fun hm => ?_
    obtain ⟨i, hi, -⟩ := exists_decode_of_matches hr hm
    cases he.symm.trans hi
  · cases hd : decode w with
    | error e => exact ⟨e, rfl⟩
    | ok i => cases (hnone i.row (row_mem_opcodeRows i)).symm.trans (matches_row_of_decode hd)
  · obtain ⟨i, hi, rfl⟩ := exists_decode_of_matches hr h
    obtain ⟨i', hi', rfl⟩ := exists_decode_of_matches hr' h'
    cases hi.symm.trans hi'
    rfl

/-- Settles O5, by decoding each word. -/
theorem writtenWordsDecode : Obligations.WrittenWordsDecode := by
  unfold Obligations.WrittenWordsDecode
  decide

end Sys2Proof.Machine
end

section
/-! PROOFS. The layouts and access of CMD, STATUS, TWSIZE and CAP (30_encoding.md R67), and the STATUS values of safe
states. -/

namespace Sys2Proof.Machine

/-! ### The registers as numbers -/

theorem toNat_statusWord (s : State) :
    s.statusWord.toNat = s.err.toNat * 16 + s.done.toNat * 2 + s.busy.toNat := by
  simp only [State.statusWord, toNat_append_eq, BitVec.toNat_ofBool, BitVec.toNat_ofNat]
  omega

theorem toNat_twsizeWord (s : State) : s.twsizeWord.toNat = s.tblValid.toNat * 2 ^ 31 + s.tblSize.toNat := by
  simp only [State.twsizeWord, toNat_append_eq, BitVec.toNat_ofBool, BitVec.toNat_ofNat]
  omega

theorem toNat_capWord (s : State) : s.capWord.toNat = 256 + s.cfg.logn := by
  have hlogn := Config.logn_range s.cfg
  simp only [State.capWord, toNat_append_eq, BitVec.toNat_ofNat]
  omega

/-- A flag is the bit of a register that its number says. -/
theorem getLsbD_eq_of_toNat {n : Nat} {v : BitVec n} {k : Nat} {b : Bool} (h : v.toNat / 2 ^ k % 2 = b.toNat) :
    v.getLsbD k = b := by
  rw [getLsbD_eq, h]
  cases b <;> rfl

/-- A field is the bits of a register that its number says. -/
theorem extractLsb'_eq_of_toNat {n lo len : Nat} {v : BitVec n} {x : BitVec len}
    (h : v.toNat / 2 ^ lo % 2 ^ len = x.toNat) : v.extractLsb' lo len = x :=
  BitVec.eq_of_toNat_eq ((toNat_extractLsb'_eq v lo len).trans h)

/-- The same for a field that always holds one number. -/
theorem extractLsb'_eq_ofNat {n lo len : Nat} {v : BitVec n} {x : Nat} (h : v.toNat / 2 ^ lo % 2 ^ len = x % 2 ^ len) :
    v.extractLsb' lo len = BitVec.ofNat len x :=
  extractLsb'_eq_of_toNat (h.trans (BitVec.toNat_ofNat x len).symm)

theorem statusWord_layout (s : State) :
    s.statusWord.getLsbD 0 = s.busy ∧ s.statusWord.getLsbD 1 = s.done ∧ s.statusWord.extractLsb' 2 2 = 0#2 ∧
      s.statusWord.extractLsb' 4 4 = s.err ∧ s.statusWord.extractLsb' 8 24 = 0#24 := by
  have hword := toNat_statusWord s
  have hbusy := Bool.toNat_lt s.busy
  have hdone := Bool.toNat_lt s.done
  have herr := s.err.isLt
  refine ⟨getLsbD_eq_of_toNat ?_, getLsbD_eq_of_toNat ?_, extractLsb'_eq_ofNat ?_, extractLsb'_eq_of_toNat ?_,
    extractLsb'_eq_ofNat ?_⟩ <;> omega

theorem twsizeWord_layout (s : State) :
    s.twsizeWord.getLsbD 31 = s.tblValid ∧ s.twsizeWord.extractLsb' 24 7 = 0#7 ∧
      s.twsizeWord.extractLsb' 0 24 = s.tblSize := by
  have hword := toNat_twsizeWord s
  have hvalid := Bool.toNat_lt s.tblValid
  have hsize := s.tblSize.isLt
  refine ⟨getLsbD_eq_of_toNat ?_, extractLsb'_eq_ofNat ?_, extractLsb'_eq_of_toNat ?_⟩ <;> omega

theorem capWord_layout (s : State) :
    (s.capWord.extractLsb' 0 5).toNat = s.cfg.logn ∧ s.capWord.extractLsb' 5 3 = 0#3 ∧
      s.capWord.extractLsb' 8 8 = 1#8 ∧ s.capWord.extractLsb' 16 16 = 0#16 := by
  have hword := toNat_capWord s
  have hlogn := Config.logn_range s.cfg
  refine ⟨(toNat_extractLsb'_eq _ _ _).trans ?_, extractLsb'_eq_ofNat ?_, extractLsb'_eq_ofNat ?_,
    extractLsb'_eq_ofNat ?_⟩ <;> omega

/-! ### The STATUS values -/

theorem exists_bits_of_le {e : BitVec 4} (h : e.toNat ≤ 3) : ∃ code : ErrCode, e = code.bits := by
  have hcases : e.toNat = 0 ∨ e.toNat = 1 ∨ e.toNat = 2 ∨ e.toNat = 3 := by omega
  obtain he | he | he | he := hcases
  · exact ⟨.ok, BitVec.eq_of_toNat_eq he⟩
  · exact ⟨.invalidLength, BitVec.eq_of_toNat_eq he⟩
  · exact ⟨.uninitializedTable, BitVec.eq_of_toNat_eq he⟩
  · exact ⟨.illegalCommand, BitVec.eq_of_toNat_eq he⟩

/-- A safe state has run nothing yet or is running, with no code, or is done with a code (10_state.md R35). -/
theorem SafeState.status_cases {s : State} (h : SafeState s) :
    (s.done = false ∧ s.err = 0) ∨ (s.busy = false ∧ s.done = true ∧ ∃ code : ErrCode, s.err = code.bits) := by
  cases hdone : s.done with
  | false => exact .inl ⟨rfl, h.errNeedsDone hdone⟩
  | true =>
    have hidle : s.busy = false := Bool.eq_false_iff.2 fun hb => by simp [h.busyNotDone hb] at hdone
    exact .inr ⟨hidle, rfl, exists_bits_of_le h.errCode⟩

/-- The STATUS values of 30_encoding.md R67: reset, busy, and done with each code. -/
def statusValues : List Reg32 :=
  [0x00000000#32, 0x00000001#32, 0x00000002#32, 0x00000012#32, 0x00000022#32, 0x00000032#32]

theorem statusWord_mem_of_safe {s : State} (h : SafeState s) : s.statusWord ∈ statusValues := by
  unfold State.statusWord
  obtain ⟨hdone, herr⟩ | ⟨hbusy, hdone, code, herr⟩ := h.status_cases
  · rw [hdone, herr]
    cases s.busy <;> decide
  · rw [hbusy, hdone, herr]
    cases code <;> decide

theorem safeState_reset_complete (code : ErrCode) : SafeState (State.reset.complete code) :=
  safeState_completed safeState_reset.mem safeState_reset.tagOk code rfl

theorem exists_safe_of_mem_statusValues {v : Reg32} (h : v ∈ statusValues) : ∃ s : State, SafeState s ∧ s.statusWord = v := by
  simp only [statusValues, List.mem_cons, List.not_mem_nil, or_false] at h
  obtain rfl | rfl | rfl | rfl | rfl | rfl := h
  · exact ⟨State.reset, safeState_reset, rfl⟩
  · exact ⟨State.reset.accept (encode .nop) [.finish .ok],
      safeState_accept safeState_reset.mem safeState_reset.tagOk _ ⟨[], .ok, rfl, by simp⟩, rfl⟩
  · exact ⟨_, safeState_reset_complete .ok, rfl⟩
  · exact ⟨_, safeState_reset_complete .invalidLength, rfl⟩
  · exact ⟨_, safeState_reset_complete .uninitializedTable, rfl⟩
  · exact ⟨_, safeState_reset_complete .illegalCommand, rfl⟩

/-- Settles O40: the layouts from the registers' numbers, the access from what the port allows. -/
theorem registerLayouts : Obligations.RegisterLayouts := by
  refine ⟨fun s => ?_, fun s w hb => ?_, fun w => ⟨opcField_eq w, dirField_eq w, twmField_eq w, rsvField_eq w, lenOf_eq w⟩,
    rfl, rfl, rfl, rfl, fun s k w hk => hostTurn_of_not_allows fun ⟨hzero, _⟩ => hk hzero,
    fun s hb => hostTurn_of_not_allows fun ⟨_, hread⟩ => by simpa using hread hb,
    fun s hs => statusWord_mem_of_safe hs, fun v hv => exists_safe_of_mem_statusValues hv⟩
  · obtain ⟨hbusy, hdone, hzero2, herr, hzero8⟩ := statusWord_layout s
    obtain ⟨hvalid, hzero24, hsize⟩ := twsizeWord_layout s
    exact ⟨hbusy, hdone, hzero2, herr, hzero8, hvalid, hzero24, hsize, capWord_layout s⟩
  · rw [hostTurn_writeCsr ⟨rfl, hb⟩]
    exact ⟨rfl, rfl⟩

end Sys2Proof.Machine
end

section
/-! PROOFS. The classes of words, the negation, and what the sum and the product are in each case (40_numerics.md R80 to
R83, R85). -/

namespace Sys2Proof.Machine

/-! ### Classes -/

theorem isFinite_iff {w : Word} : isFinite w = true ↔ expOf w ≠ 2047 := by simp [isFinite]

theorem isInf_iff {w : Word} : isInf w = true ↔ expOf w = 2047 ∧ fracOf w = 0 := by simp [isInf]

theorem isZero_iff {w : Word} : isZero w = true ↔ expOf w = 0 ∧ fracOf w = 0 := by simp [isZero]

theorem isNaN_of_isFinite {w : Word} (h : isFinite w = true) : isNaN w = false := by
  simp [isNaN, isFinite_iff.1 h]

theorem isInf_of_isFinite {w : Word} (h : isFinite w = true) : isInf w = false := by
  simp [isInf, isFinite_iff.1 h]

theorem isNaN_of_isInf {w : Word} (h : isInf w = true) : isNaN w = false := by
  simp [isNaN, (isInf_iff.1 h).2]

theorem isFinite_of_isZero {w : Word} (h : isZero w = true) : isFinite w = true := by
  simp [isFinite, (isZero_iff.1 h).1]

theorem isZero_of_isInf {w : Word} (h : isInf w = true) : isZero w = false := by
  simp [isZero, (isInf_iff.1 h).1]

/-- A word is a NaN, an infinity or finite (40_numerics.md R80). -/
theorem word_cases (w : Word) : isNaN w = true ∨ isInf w = true ∨ isFinite w = true := by
  simp only [isNaN, isInf, isFinite, Bool.and_eq_true, beq_iff_eq, bne_iff_ne]
  omega

theorem isInf_or_isFinite {w : Word} (h : isNaN w = false) : isInf w = true ∨ isFinite w = true :=
  (word_cases w).resolve_left (by simp [h])

theorem isInf_of_not_isFinite {w : Word} (hnum : isNaN w = false) (h : isFinite w = false) : isInf w = true :=
  (isInf_or_isFinite hnum).resolve_right (by simp [h])

theorem fracOf_lt (w : Word) : fracOf w < 2 ^ 52 := BitVec.isLt _

theorem expOf_lt (w : Word) : expOf w < 2 ^ 11 := BitVec.isLt _

/-- A word is put together from its three fields (40_numerics.md R80). -/
theorem packWord_fields (w : Word) : packWord (signOf w) (expOf w * 2 ^ 52 + fracOf w) = w := by
  have hw := w.isLt
  apply BitVec.eq_of_toNat_eq
  have hlt : expOf w * 2 ^ 52 + fracOf w < 2 ^ 63 := by
    have he := expOf_lt w
    have hf := fracOf_lt w
    omega
  rw [toNat_packWord hlt, signOf_eq, expOf_eq, fracOf_eq]
  simp only [decide_eq_true_eq]
  split <;> omega

theorem packWord_infBits_of_isInf {w : Word} (h : isInf w = true) : packWord (signOf w) infBits = w := by
  obtain ⟨hexp, hfrac⟩ := isInf_iff.1 h
  conv_rhs => rw [← packWord_fields w, hexp, hfrac]
  rfl

theorem eq_of_isInf {a b : Word} (ha : isInf a = true) (hb : isInf b = true) (hs : signOf a = signOf b) : a = b := by
  rw [← packWord_infBits_of_isInf ha, hs, packWord_infBits_of_isInf hb]

theorem infBits_lt : infBits < 2 ^ 63 := by decide

theorem isInf_packWord_infBits (neg : Bool) : isInf (packWord neg infBits) = true := by
  rw [isInf_iff, expOf_packWord infBits_lt, fracOf_packWord infBits_lt]
  decide

/-! ### Values -/

theorem magOf_eq_zero_iff {w : Word} : magOf w = 0 ↔ isZero w = true := by
  rw [isZero_iff, magOf]
  split <;> simp [*]

/-- The sign and the magnitude put together to a value. -/
def signedMag (neg : Bool) (m : Nat) : Int := if neg then -(m : Int) else (m : Int)

theorem signedMag_false (m : Nat) : signedMag false m = m := rfl

theorem signedMag_true (m : Nat) : signedMag true m = -m := rfl

theorem valueOf_eq_signedMag (w : Word) : valueOf w = signedMag (signOf w) (magOf w) := rfl

@[simp] theorem natAbs_signedMag (neg : Bool) (m : Nat) : (signedMag neg m).natAbs = m := by
  cases neg <;> simp [signedMag]

@[simp] theorem natAbs_valueOf (w : Word) : (valueOf w).natAbs = magOf w := natAbs_signedMag _ _

theorem abs_valueOf (w : Word) : |valueOf w| = magOf w := by
  rw [Int.abs_eq_natAbs, natAbs_valueOf]

theorem signedMag_mul (neg : Bool) (m n : Nat) : signedMag neg (m * n) = signedMag neg m * n := by
  cases neg <;> simp [signedMag]

theorem valueOf_mul_valueOf (a b : Word) : valueOf a * valueOf b = signedMag (signOf a != signOf b) (magOf a * magOf b) := by
  simp only [valueOf_eq_signedMag]
  cases signOf a <;> cases signOf b <;> simp [signedMag]

theorem valueOf_eq_zero_iff {w : Word} : valueOf w = 0 ↔ isZero w = true := by
  rw [← Int.natAbs_eq_zero, natAbs_valueOf, magOf_eq_zero_iff]

theorem valueOf_neg_iff {w : Word} : valueOf w < 0 ↔ signOf w = true ∧ isZero w = false := by
  rw [← Bool.not_eq_true, ← magOf_eq_zero_iff, valueOf_eq_signedMag]
  cases signOf w
  · simp [signedMag]
  · simp [signedMag, Nat.pos_iff_ne_zero]

/-! ### Negation -/

theorem getLsbD_fneg (a : Word) {k : Nat} (hk : k < 64) :
    (fneg a).getLsbD k = if k = 63 then !a.getLsbD k else a.getLsbD k := by
  have hmask : ∀ i < 64, (0x8000000000000000#64).getLsbD i = decide (i = 63) := by decide
  rw [fneg, BitVec.getLsbD_xor, hmask k hk]
  by_cases h : k = 63 <;> simp [h]

@[simp] theorem signOf_fneg (a : Word) : signOf (fneg a) = !signOf a := getLsbD_fneg a (by decide)

@[simp] theorem expOf_fneg (a : Word) : expOf (fneg a) = expOf a := by
  rw [expOf, fneg, BitVec.extractLsb'_xor]
  simp [expOf]

@[simp] theorem fracOf_fneg (a : Word) : fracOf (fneg a) = fracOf a := by
  rw [fracOf, fneg, BitVec.extractLsb'_xor]
  simp [fracOf]

@[simp] theorem isInf_fneg (a : Word) : isInf (fneg a) = isInf a := by simp [isInf]

@[simp] theorem isFinite_fneg (a : Word) : isFinite (fneg a) = isFinite a := by simp [isFinite]

@[simp] theorem valueOf_fneg (a : Word) : valueOf (fneg a) = -valueOf a := by
  simp only [valueOf_eq_signedMag, magOf, signOf_fneg, expOf_fneg, fracOf_fneg, signedMag]
  cases signOf a <;> simp

/-! ### The cases of the sum -/

/-- The sign of the sum of two finite words: that of the exact sum; of an exact zero, negative only when both operands are
(40_numerics.md R81). -/
def sumSign (a b : Word) : Bool :=
  if valueOf a + valueOf b = 0 then signOf a && signOf b else decide (valueOf a + valueOf b < 0)

theorem addNum_of_finite {a b : Word} (ha : isFinite a = true) (hb : isFinite b = true) :
    addNum a b = some (packWord (sumSign a b) (roundBits (valueOf a + valueOf b).natAbs 0)) := by
  simp [addNum, isNaN_of_isFinite, isInf_of_isFinite, ha, hb, sumSign]

theorem addNum_of_inf_left {a b : Word} (ha : isInf a = true) (hb : isNaN b = false)
    (hs : isInf b = true → signOf a = signOf b) : addNum a b = some a := by
  simpa [addNum, isNaN_of_isInf ha, ha, hb] using hs

theorem addNum_of_inf_right {a b : Word} (ha : isFinite a = true) (hb : isInf b = true) : addNum a b = some b := by
  simp [addNum, isNaN_of_isFinite ha, isNaN_of_isInf hb, isInf_of_isFinite ha, hb]

theorem addNum_of_cancel {a b : Word} (ha : isInf a = true) (hb : isInf b = true) (hs : signOf a ≠ signOf b) :
    addNum a b = none := by
  simp [addNum, ha, hb, hs]

/-- When a sum is no number (40_numerics.md R81, R85). -/
theorem addNum_eq_none_iff {a b : Word} :
    addNum a b = none ↔
      isNaN a = true ∨ isNaN b = true ∨ (isInf a = true ∧ isInf b = true ∧ signOf a ≠ signOf b) := by
  constructor
  · intro h
    obtain ha | ha | ha := word_cases a
    · exact .inl ha
    · by_contra hne
      simp only [not_or, Bool.not_eq_true] at hne
      obtain ⟨-, hb, hs⟩ := hne
      rw [addNum_of_inf_left ha hb fun hbi => by_contra fun hne => hs ⟨ha, hbi, hne⟩] at h
      cases h
    · obtain hb | hb | hb := word_cases b
      · exact .inr (.inl hb)
      · rw [addNum_of_inf_right ha hb] at h
        cases h
      · rw [addNum_of_finite ha hb] at h
        cases h
  · rintro (ha | hb | ⟨ha, hb, hs⟩)
    · exact addNum_of_nan (.inl ha)
    · exact addNum_of_nan (.inr hb)
    · exact addNum_of_cancel ha hb hs

theorem sumSign_comm (a b : Word) : sumSign a b = sumSign b a := by
  rw [sumSign, sumSign, Int.add_comm, Bool.and_comm]

theorem addNum_comm_of_isInf {a b : Word} (ha : isInf a = true) : addNum a b = addNum b a := by
  obtain hb | hb | hb := word_cases b
  · rw [addNum_of_nan (.inr hb), addNum_of_nan (.inl hb)]
  · by_cases hs : signOf a = signOf b
    · rw [eq_of_isInf ha hb hs]
    · rw [addNum_of_cancel ha hb hs, addNum_of_cancel hb ha (Ne.symm hs)]
  · rw [addNum_of_inf_right hb ha, addNum_of_inf_left ha (isNaN_of_isFinite hb) (by simp [isInf_of_isFinite hb])]

theorem addNum_comm (a b : Word) : addNum a b = addNum b a := by
  obtain ha | ha | ha := word_cases a
  · rw [addNum_of_nan (.inl ha), addNum_of_nan (.inr ha)]
  · exact addNum_comm_of_isInf ha
  · obtain hb | hb | hb := word_cases b
    · rw [addNum_of_nan (.inr hb), addNum_of_nan (.inl hb)]
    · exact (addNum_comm_of_isInf hb).symm
    · rw [addNum_of_finite ha hb, addNum_of_finite hb ha, sumSign_comm, Int.add_comm]

/-! ### The cases of the product -/

theorem mulNum_of_finite {a b : Word} (ha : isFinite a = true) (hb : isFinite b = true) :
    mulNum a b = some (packWord (signOf a != signOf b) (roundBits (magOf a * magOf b) 1074)) := by
  simp [mulNum, isNaN_of_isFinite, isInf_of_isFinite, ha, hb]

theorem mulNum_comm (a b : Word) : mulNum a b = mulNum b a := by
  rw [mulNum, mulNum, Bool.or_comm (isNaN a), Bool.or_comm (isInf a), Bool.or_comm (isZero a), bne_comm, Nat.mul_comm]

theorem mulNum_of_inf {a b : Word} (ha : isInf a = true) (hb : isNaN b = false) (hz : isZero b = false) :
    mulNum a b = some (packWord (signOf a != signOf b) infBits) := by
  simp [mulNum, isNaN_of_isInf ha, isZero_of_isInf ha, ha, hb, hz]

theorem mulNum_of_inf_zero {a b : Word} (ha : isInf a = true) (hb : isZero b = true) : mulNum a b = none := by
  simp [mulNum, ha, hb]

/-- When a product is no number (40_numerics.md R83, R85). -/
theorem mulNum_eq_none_iff {a b : Word} :
    mulNum a b = none ↔
      isNaN a = true ∨ isNaN b = true ∨ (isInf a = true ∧ isZero b = true) ∨ (isZero a = true ∧ isInf b = true) := by
  constructor
  · intro h
    by_contra hne
    simp only [not_or, not_and, Bool.not_eq_true] at hne
    obtain ⟨hna, hnb, hab, hba⟩ := hne
    obtain ha | ha := isInf_or_isFinite hna
    · rw [mulNum_of_inf ha hnb (hab ha)] at h
      cases h
    · obtain hb | hb := isInf_or_isFinite hnb
      · have hza : isZero a = false := Bool.eq_false_iff.2 fun hz => by simp [hba hz] at hb
        rw [mulNum_comm, mulNum_of_inf hb hna hza] at h
        cases h
      · rw [mulNum_of_finite ha hb] at h
        cases h
  · rintro (ha | hb | ⟨ha, hb⟩ | ⟨ha, hb⟩)
    · exact mulNum_of_nan (.inl ha)
    · exact mulNum_of_nan (.inr hb)
    · exact mulNum_of_inf_zero ha hb
    · rw [mulNum_comm, mulNum_of_inf_zero hb ha]

/-! ### NaN results and the draw -/

theorem isNaN_fadd_iff {q : Nat} {a b : Word} : isNaN (fadd q a b) = true ↔ addNum a b = none := by
  cases h : addNum a b with
  | none => simp [fadd, h]
  | some r => simp [fadd, h, isNaN_of_addNum h]

theorem isNaN_fmul_iff {q : Nat} {a b : Word} : isNaN (fmul q a b) = true ↔ mulNum a b = none := by
  cases h : mulNum a b with
  | none => simp [fmul, h]
  | some r => simp [fmul, h, isNaN_of_mulNum h]

/-- A value that is there hides the default (40_numerics.md R85: only the bits of a NaN are free). -/
theorem getD_eq_getD_of_ne_none {α : Type} {x : Option α} (h : x ≠ none) (u v : α) : x.getD u = x.getD v := by
  cases x with
  | none => exact absurd rfl h
  | some r => rfl

theorem fadd_draw_irrelevant {q : Nat} (q' : Nat) {a b : Word} (h : isNaN (fadd q a b) = false) :
    fadd q' a b = fadd q a b :=
  getD_eq_getD_of_ne_none (fun hnone => by simp [isNaN_fadd_iff.2 hnone] at h) _ _

theorem fmul_draw_irrelevant {q : Nat} (q' : Nat) {a b : Word} (h : isNaN (fmul q a b) = false) :
    fmul q' a b = fmul q a b :=
  getD_eq_getD_of_ne_none (fun hnone => by simp [isNaN_fmul_iff.2 hnone] at h) _ _

/-- Settles O8: each operation's NaN cases from those of its number; `fsub`'s by the negation. -/
theorem resultIsNaNExactlyWhen : Obligations.ResultIsNaNExactlyWhen := by
  refine ⟨fun q a b => isNaN_fadd_iff.trans addNum_eq_none_iff, fun q a b => ?_,
    fun q a b => isNaN_fmul_iff.trans mulNum_eq_none_iff, fun q q' a b => fadd_draw_irrelevant q',
    fun q q' a b => fmul_draw_irrelevant q'⟩
  rw [fsub, isNaN_fadd_iff, addNum_eq_none_iff, isNaN_fneg, isInf_fneg, signOf_fneg]
  simp

end Sys2Proof.Machine
end

section
/-! PROOFS. Rounding (40_numerics.md R84, R87): which bits are rounded away, what the result is in value, that no finite
word is nearer, and that a magnitude of a finite word is kept as it is. -/

namespace Sys2Proof.Machine

/-! ### How many bits are rounded away -/

/-- The number of low bits that `roundBits n sh` rounds away. -/
def dropOf (n sh : Nat) : Nat := max sh (Nat.log2 n - 52)

theorem roundBits_eq (n sh : Nat) :
    roundBits n sh = min infBits ((dropOf n sh - sh) * 2 ^ 52 + roundEven n (dropOf n sh)) := rfl

theorem le_dropOf (n sh : Nat) : sh ≤ dropOf n sh := Nat.le_max_left _ _

/-- At most 53 bits are kept. -/
theorem lt_two_pow_dropOf (n sh : Nat) : n < 2 ^ (dropOf n sh + 53) :=
  Nat.lt_log2_self.trans_le (Nat.pow_le_pow_right (by decide) (by unfold dropOf; omega))

/-- Above the subnormal range no fewer than 53 bits are kept. -/
theorem two_pow_dropOf_le {n sh : Nat} (h : sh < dropOf n sh) : 2 ^ (dropOf n sh + 52) ≤ n := by
  have hlog : dropOf n sh + 52 = Nat.log2 n := by
    unfold dropOf at h ⊢
    omega
  rw [hlog]
  exact Nat.log2_self_le fun hn => by simp [hn, dropOf] at h

/-- The two bounds determine the number of bits rounded away. -/
theorem dropOf_eq {n sh d : Nat} (hsh : sh ≤ d) (hlt : n < 2 ^ (d + 53)) (hle : d = sh ∨ 2 ^ (d + 52) ≤ n) :
    dropOf n sh = d := by
  have hpow : ∀ {i j : Nat}, 2 ^ i ≤ n → n < 2 ^ j → i < j := fun hi hj =>
    (Nat.pow_lt_pow_iff_right (by decide)).1 (hi.trans_lt hj)
  have hupper : dropOf n sh ≤ d := by
    by_contra hgt
    have := hpow (two_pow_dropOf_le (n := n) (sh := sh) (by omega)) hlt
    omega
  have hlower : d ≤ dropOf n sh := by
    obtain rfl | hle := hle
    · exact le_dropOf n d
    · have := hpow hle (lt_two_pow_dropOf n sh)
      omega
  omega

/-! ### Rounding to an integer -/

theorem roundEven_mul_two_pow (q d : Nat) : roundEven (q * 2 ^ d) d = q := by
  have hpos := Nat.two_pow_pos d
  simp [roundEven, Nat.mul_div_cancel _ hpos, hpos.ne]

/-- The remainder decides: the quotient when it is at most the half, the next integer when it is at least the half, and at
the half exactly the even one. -/
theorem roundEven_cases (n d : Nat) :
    ∃ r, n = n / 2 ^ d * 2 ^ d + r ∧ r < 2 ^ d ∧
      ((roundEven n d = n / 2 ^ d ∧ 2 * r ≤ 2 ^ d ∧ (2 * r = 2 ^ d → roundEven n d % 2 = 0)) ∨
       (roundEven n d = n / 2 ^ d + 1 ∧ 2 ^ d ≤ 2 * r ∧ (2 * r = 2 ^ d → roundEven n d % 2 = 0))) := by
  refine ⟨n % 2 ^ d, (Nat.div_add_mod' n (2 ^ d)).symm, Nat.mod_lt _ (Nat.two_pow_pos d), ?_⟩
  simp only [roundEven]
  split
  · right
    omega
  · left
    omega

/-- Rounding to nearest, ties to even (40_numerics.md R84), against one alternative: `y` is not nearer to `e` than `x`, and
where another value `y` is equally near, `x` is the even one. -/
def NotNearer (e x y : Int) (even : Prop) : Prop := |x - e| ≤ |y - e| ∧ (|x - e| = |y - e| → y ≠ x → even)

/-- No multiple of `2^d` is nearer to `n` than the rounded one, and of two equally near the rounded one is even. -/
theorem roundEven_nearest (n d : Nat) (t : Int) :
    NotNearer n (roundEven n d * 2 ^ d) (t * 2 ^ d) (roundEven n d % 2 = 0) := by
  obtain ⟨r, hn, hr, hcases⟩ := roundEven_cases n d
  obtain ⟨i, rfl⟩ : ∃ i : Int, t = (n / 2 ^ d : Nat) + i := ⟨t - (n / 2 ^ d : Nat), by omega⟩
  have hpow : ((2 ^ d : Nat) : Int) = 2 ^ d := Int.natCast_pow 2 d
  generalize roundEven n d = q' at hcases ⊢
  generalize n / 2 ^ d = q at hn hcases ⊢
  rw [← hpow, hn]
  generalize 2 ^ d = D at hr hcases
  have hother : ((q : Int) + i) * D = q * D + i * D := Int.add_mul _ _ _
  have hi : (i ≤ -1 ∧ i * D ≤ -1 * D) ∨ i = 0 ∨ i = 1 ∨ (2 ≤ i ∧ 2 * (D : Int) ≤ i * D) := by
    have hlow : i ≤ -1 → i * D ≤ -1 * D := fun h => Int.mul_le_mul_of_nonneg_right h (by omega)
    have hhigh : 2 ≤ i → 2 * (D : Int) ≤ i * D := fun h => Int.mul_le_mul_of_nonneg_right h (by omega)
    omega
  have hself : (q' : Int) * D = q * D + (if q' = q then 0 else D) := by
    obtain ⟨rfl, -⟩ | ⟨rfl, -⟩ := hcases
    · simp
    · rw [if_neg (by omega), Int.natCast_add, Int.add_mul, Int.natCast_one, Int.one_mul]
  rw [NotNearer, hself, hother, Int.abs_eq_natAbs, Int.abs_eq_natAbs, Int.natCast_add, Int.natCast_mul]
  generalize (q : Int) * D = multiple
  obtain ⟨-, hmul⟩ | rfl | rfl | ⟨-, hmul⟩ := hi <;> split <;> omega

theorem roundEven_le {n d m : Nat} (h : n < m * 2 ^ d) : roundEven n d ≤ m := by
  have hdiv : n / 2 ^ d < m := (Nat.div_lt_iff_lt_mul (Nat.two_pow_pos d)).2 h
  obtain ⟨r, -, -, ⟨hq, -⟩ | ⟨hq, -⟩⟩ := roundEven_cases n d <;> omega

theorem le_roundEven {n d m : Nat} (h : m * 2 ^ d ≤ n) : m ≤ roundEven n d := by
  have hdiv : m ≤ n / 2 ^ d := (Nat.le_div_iff_mul_le (Nat.two_pow_pos d)).2 h
  obtain ⟨r, -, -, ⟨hq, -⟩ | ⟨hq, -⟩⟩ := roundEven_cases n d <;> omega

/-- A quotient that is rounded up had at least a half above it. -/
theorem two_mul_roundEven_sub_one_le {n d : Nat} (h : n < roundEven n d * 2 ^ d) :
    (2 * roundEven n d - 1) * 2 ^ d ≤ 2 * n := by
  obtain ⟨r, hn, -, ⟨hq, -⟩ | ⟨hq, hhalf, -⟩⟩ := roundEven_cases n d
  · rw [hq] at h
    omega
  · rw [hq, show 2 * (n / 2 ^ d + 1) - 1 = 2 * (n / 2 ^ d) + 1 by omega, Nat.add_mul, Nat.mul_assoc]
    omega

/-! ### Words as a significand times a power of two -/

/-- A significand and a scale as a word's bits 62:0 hold them: the hidden bit may carry into the exponent, and below the
hidden bit there is the subnormal scale alone. -/
def IsScaled (q k : Nat) : Prop := q ≤ 2 ^ 53 ∧ (k = 0 ∨ 2 ^ 52 ≤ q)

theorem magOf_packWord {neg : Bool} {q k : Nat} (h : IsScaled q k) (hlt : k * 2 ^ 52 + q < 2 ^ 63) :
    magOf (packWord neg (k * 2 ^ 52 + q)) = q * 2 ^ k := by
  obtain ⟨hq, hk⟩ := h
  rw [magOf, expOf_packWord hlt, fracOf_packWord hlt]
  have hcases : (k = 0 ∧ q < 2 ^ 52) ∨ (2 ^ 52 ≤ q ∧ q < 2 ^ 53) ∨ q = 2 ^ 53 := by omega
  obtain ⟨rfl, hsub⟩ | ⟨hlow, hhigh⟩ | rfl := hcases
  · rw [if_pos (by omega), Nat.pow_zero]
    omega
  · have hexp : (k * 2 ^ 52 + q) / 2 ^ 52 = k + 1 := by omega
    have hfrac : 2 ^ 52 + (k * 2 ^ 52 + q) % 2 ^ 52 = q := by omega
    rw [hexp, hfrac, if_neg (by omega), Nat.add_sub_cancel]
  · have hexp : (k * 2 ^ 52 + 2 ^ 53) / 2 ^ 52 = k + 1 + 1 := by omega
    have hfrac : (k * 2 ^ 52 + 2 ^ 53) % 2 ^ 52 = 0 := by omega
    rw [hexp, hfrac, if_neg (by omega), Nat.add_sub_cancel]
    ring

/-- Every word's magnitude is a significand of 53 bits times a power of two, and they are its bits 62:0. -/
theorem exists_isScaled (w : Word) :
    ∃ q k, IsScaled q k ∧ q < 2 ^ 53 ∧ magOf w = q * 2 ^ k ∧ k * 2 ^ 52 + q < 2 ^ 63 ∧
      packWord (signOf w) (k * 2 ^ 52 + q) = w := by
  have hfrac := fracOf_lt w
  have hlt := expOf_lt w
  by_cases hexp : expOf w = 0
  · refine ⟨fracOf w, 0, ⟨by omega, .inl rfl⟩, by omega, by simp [magOf, hexp], by omega, ?_⟩
    conv_rhs => rw [← packWord_fields w, hexp]
  · have hbits : (expOf w - 1) * 2 ^ 52 + (2 ^ 52 + fracOf w) = expOf w * 2 ^ 52 + fracOf w := by omega
    refine ⟨2 ^ 52 + fracOf w, expOf w - 1, ⟨by omega, .inr (by omega)⟩, by omega, by simp [magOf, hexp], by omega, ?_⟩
    rw [hbits, packWord_fields]

theorem isFinite_packWord_iff {neg : Bool} {b : Nat} (h : b < 2 ^ 63) : isFinite (packWord neg b) = true ↔ b < infBits := by
  rw [isFinite_iff, expOf_packWord h]
  unfold infBits
  omega

theorem exists_isScaled_of_isFinite {w : Word} (h : isFinite w = true) :
    ∃ q k, IsScaled q k ∧ q < 2 ^ 53 ∧ magOf w = q * 2 ^ k ∧ k * 2 ^ 52 + q < infBits ∧
      packWord (signOf w) (k * 2 ^ 52 + q) = w := by
  obtain ⟨q, k, hscaled, hq, hmag, hlt, hw⟩ := exists_isScaled w
  exact ⟨q, k, hscaled, hq, hmag, (isFinite_packWord_iff hlt).1 (by rw [hw, h]), hw⟩

/-- A magnitude with a sign is a multiple of any power of two, or small beside it: the grid of the finite words. -/
theorem grid_of_natAbs_eq_magOf {z : Word} {v : Int} (hv : v.natAbs = magOf z) (k : Nat) :
    (∃ u, v = u * 2 ^ k) ∨ (0 < k ∧ |v| < 2 ^ (52 + k)) := by
  obtain ⟨q, j, -, hq, hmag, -, -⟩ := exists_isScaled z
  by_cases hjk : k ≤ j
  · have hdvd : 2 ^ k ∣ v.natAbs := hv ▸ hmag ▸ (pow_dvd_pow 2 hjk).mul_left q
    obtain ⟨u, hu⟩ := Int.natCast_dvd.2 hdvd
    exact .inl ⟨u, by rw [hu, Int.mul_comm]; push_cast; rfl⟩
  · refine .inr ⟨by omega, ?_⟩
    rw [Int.abs_eq_natAbs, hv]
    exact_mod_cast calc magOf z = q * 2 ^ j := hmag
      _ < 2 ^ 53 * 2 ^ j := Nat.mul_lt_mul_of_pos_right hq (Nat.two_pow_pos j)
      _ = 2 ^ (53 + j) := (Nat.pow_add _ _ _).symm
      _ ≤ 2 ^ (52 + k) := Nat.pow_le_pow_right (by decide) (by omega)

/-! ### What the rounded bits are -/

theorem isScaled_roundEven (n sh : Nat) : IsScaled (roundEven n (dropOf n sh)) (dropOf n sh - sh) := by
  refine ⟨roundEven_le ?_, ?_⟩
  · rw [← Nat.pow_add, Nat.add_comm]
    exact lt_two_pow_dropOf n sh
  · by_cases hdrop : sh < dropOf n sh
    · refine .inr (le_roundEven ?_)
      rw [← Nat.pow_add, Nat.add_comm]
      exact two_pow_dropOf_le hdrop
    · exact .inl (by omega)

/-- The rounded bits that are no infinity. -/
theorem roundBits_of_lt {n sh : Nat} (h : roundBits n sh < infBits) :
    roundBits n sh = (dropOf n sh - sh) * 2 ^ 52 + roundEven n (dropOf n sh) := by
  rw [roundBits_eq] at h ⊢
  omega

theorem magOf_roundBits (neg : Bool) {n sh : Nat} (h : roundBits n sh < infBits) :
    magOf (packWord neg (roundBits n sh)) * 2 ^ sh = roundEven n (dropOf n sh) * 2 ^ dropOf n sh := by
  have hbits := roundBits_of_lt h
  rw [hbits, magOf_packWord (isScaled_roundEven n sh) (hbits ▸ h.trans infBits_lt), Nat.mul_assoc, ← Nat.pow_add,
    Nat.sub_add_cancel (le_dropOf n sh)]

theorem fracOf_roundBits_mod_two (neg : Bool) {n sh : Nat} (h : roundBits n sh < infBits) :
    fracOf (packWord neg (roundBits n sh)) % 2 = roundEven n (dropOf n sh) % 2 := by
  rw [fracOf_packWord (h.trans infBits_lt), roundBits_of_lt h]
  omega

/-- Bits rounded to infinity come from the middle between the largest finite value and `2^1024`, or from above it
(40_numerics.md R84). -/
theorem middle_le_of_roundBits {n sh : Nat} (h : infBits ≤ roundBits n sh) : (2 ^ 54 - 1) * 2 ^ (2044 + sh) ≤ n := by
  obtain ⟨hq, -⟩ := isScaled_roundEven n sh
  have hsh := le_dropOf n sh
  have hsum : infBits ≤ (dropOf n sh - sh) * 2 ^ 52 + roundEven n (dropOf n sh) := by
    rw [roundBits_eq] at h
    omega
  have hcases : 2046 + sh ≤ dropOf n sh ∨ (dropOf n sh = 2044 + sh + 1 ∧ roundEven n (dropOf n sh) = 2 ^ 53) := by
    unfold infBits at hsum
    omega
  obtain hbig | ⟨hdrop, hcarry⟩ := hcases
  · calc (2 ^ 54 - 1) * 2 ^ (2044 + sh) ≤ 2 ^ 54 * 2 ^ (2044 + sh) := Nat.mul_le_mul_right _ (by decide)
      _ = 2 ^ (54 + (2044 + sh)) := (Nat.pow_add _ _ _).symm
      _ ≤ 2 ^ (dropOf n sh + 52) := Nat.pow_le_pow_right (by decide) (by omega)
      _ ≤ n := two_pow_dropOf_le (by omega)
  · have hlt : n < roundEven n (dropOf n sh) * 2 ^ dropOf n sh := by
      rw [hcarry, ← Nat.pow_add, Nat.add_comm]
      exact lt_two_pow_dropOf n sh
    have hhalf := two_mul_roundEven_sub_one_le hlt
    have hpow : 2 ^ dropOf n sh = 2 ^ (2044 + sh) * 2 := by rw [hdrop, Nat.pow_succ]
    rw [hcarry, hpow] at hhalf
    generalize 2 ^ (2044 + sh) = p at hhalf ⊢
    omega

theorem roundBits_lt_two_pow (n sh : Nat) : roundBits n sh < 2 ^ 63 := (roundBits_le n sh).trans_lt infBits_lt

theorem middle_le_abs_of_not_isFinite {neg : Bool} {n sh : Nat} (h : isFinite (packWord neg (roundBits n sh)) = false)
    {v : Int} (hv : v.natAbs = n) : (2 ^ 54 - 1) * 2 ^ (2044 + sh) ≤ |v| := by
  have hbits : infBits ≤ roundBits n sh := not_lt.1 fun hlt => by
    simp [(isFinite_packWord_iff (neg := neg) (roundBits_lt_two_pow n sh)).2 hlt] at h
  rw [Int.abs_eq_natAbs, hv]
  calc (2 ^ 54 - 1) * 2 ^ (2044 + sh) = (((2 ^ 54 - 1) * 2 ^ (2044 + sh) : Nat) : Int) := by
        rw [Int.natCast_mul, Int.natCast_pow]
        rfl
    _ ≤ n := Int.ofNat_le.2 (middle_le_of_roundBits hbits)

theorem isInf_of_rounded_not_isFinite {neg : Bool} {n sh : Nat} (h : isFinite (packWord neg (roundBits n sh)) = false) :
    isInf (packWord neg (roundBits n sh)) = true :=
  isInf_of_not_isFinite (isNaN_packWord (roundBits_le n sh)) h

/-! ### No finite word is nearer -/

/-- What is at least as near to `e` as `m` below `e` is nearer than anything below `m`. -/
theorem notNearer_of_abs_lt {e x y m : Int} {even : Prop} (hme : m ≤ e) (hx : |x - e| ≤ |m - e|) (hy : |y| < m) :
    NotNearer e x y even := by
  obtain ⟨-, hym⟩ := abs_lt.1 hy
  rw [abs_of_nonpos (by omega : m - e ≤ 0)] at hx
  have hlt : |x - e| < |y - e| := lt_abs.2 (.inr (by omega))
  exact ⟨hlt.le, fun heq => absurd heq hlt.ne⟩

theorem notNearer_neg {e x y : Int} {even : Prop} (h : NotNearer e x y even) : NotNearer (-e) (-x) (-y) even := by
  have hdist : ∀ u v : Int, |-u - -v| = |u - v| := fun u v => by rw [neg_sub_neg, abs_sub_comm]
  obtain ⟨hle, htie⟩ := h
  rw [NotNearer, hdist, hdist]
  exact ⟨hle, fun heq hne => htie heq fun hxy => hne (by rw [hxy])⟩

/-- The nearest magnitude, held against a value of either sign. -/
theorem magOf_roundBits_nearest (neg : Bool) {n sh : Nat} (h : roundBits n sh < infBits) {z : Word} {v : Int}
    (hv : v.natAbs = magOf z) :
    NotNearer n (magOf (packWord neg (roundBits n sh)) * 2 ^ sh) (v * 2 ^ sh)
      (fracOf (packWord neg (roundBits n sh)) % 2 = 0) := by
  have hmag : (magOf (packWord neg (roundBits n sh)) : Int) * 2 ^ sh =
      (roundEven n (dropOf n sh) : Int) * 2 ^ dropOf n sh := by
    exact_mod_cast magOf_roundBits neg h
  have hscale : ∀ u : Int, u * 2 ^ (dropOf n sh - sh) * 2 ^ sh = u * 2 ^ dropOf n sh := fun u => by
    rw [Int.mul_assoc, ← pow_add, Nat.sub_add_cancel (le_dropOf n sh)]
  rw [hmag, fracOf_roundBits_mod_two neg h]
  obtain ⟨u, rfl⟩ | ⟨hdrop, hsmall⟩ := grid_of_natAbs_eq_magOf hv (dropOf n sh - sh)
  · rw [hscale]
    exact roundEven_nearest n (dropOf n sh) u
  · have hpos : (0 : Int) < 2 ^ sh := by positivity
    have hn : (2 : Int) ^ 52 * 2 ^ dropOf n sh ≤ n := by
      rw [← pow_add, Nat.add_comm]
      exact_mod_cast two_pow_dropOf_le (n := n) (sh := sh) (by omega)
    refine notNearer_of_abs_lt hn (roundEven_nearest n (dropOf n sh) (2 ^ 52)).1 ?_
    rw [abs_mul, abs_of_pos hpos, ← hscale, ← pow_add]
    exact mul_lt_mul_of_pos_right hsmall hpos

theorem valueOf_packWord {neg : Bool} {b : Nat} (h : b < 2 ^ 63) :
    valueOf (packWord neg b) = signedMag neg (magOf (packWord neg b)) := by
  rw [valueOf_eq_signedMag, signOf_packWord h]

/-- The rounded word is nearest to the exact value, and even when another value is equally near (40_numerics.md R84). -/
theorem packWord_roundBits_nearest {neg : Bool} {n sh : Nat} (h : isFinite (packWord neg (roundBits n sh)) = true)
    (z : Word) :
    NotNearer (signedMag neg n) (valueOf (packWord neg (roundBits n sh)) * 2 ^ sh) (valueOf z * 2 ^ sh)
      (fracOf (packWord neg (roundBits n sh)) % 2 = 0) := by
  have hb := roundBits_lt_two_pow n sh
  have hlt := (isFinite_packWord_iff hb).1 h
  rw [valueOf_packWord hb]
  cases neg with
  | false =>
    rw [signedMag_false, signedMag_false]
    exact magOf_roundBits_nearest false hlt (natAbs_valueOf z)
  | true =>
    have hnear := notNearer_neg (magOf_roundBits_nearest true hlt (z := z) (v := -valueOf z) (by simp))
    rwa [← Int.neg_mul, ← Int.neg_mul, Int.neg_neg, ← signedMag_true, ← signedMag_true] at hnear

/-! ### Exact results -/

/-- A significand of 53 bits is kept as it is. -/
theorem roundBits_of_isScaled {q k : Nat} (h : IsScaled q k) (hq : q < 2 ^ 53) (sh : Nat) :
    roundBits (q * 2 ^ (k + sh)) sh = min infBits (k * 2 ^ 52 + q) := by
  have hdrop : dropOf (q * 2 ^ (k + sh)) sh = k + sh := by
    refine dropOf_eq (by omega) ?_ ?_
    · rw [Nat.add_comm _ 53, Nat.pow_add 2 53]
      exact Nat.mul_lt_mul_of_pos_right hq (Nat.two_pow_pos _)
    · obtain ⟨-, rfl | hlow⟩ := h
      · exact .inl (Nat.zero_add sh)
      · rw [Nat.add_comm _ 52, Nat.pow_add 2 52]
        exact .inr (Nat.mul_le_mul_right _ hlow)
  rw [roundBits_eq, hdrop, roundEven_mul_two_pow, Nat.add_sub_cancel]

@[simp] theorem roundBits_zero (sh : Nat) : roundBits 0 sh = 0 := by
  have h := roundBits_of_isScaled (q := 0) (k := 0) ⟨by decide, .inl rfl⟩ (by decide) sh
  simpa using h

/-- Rounding the magnitude of a finite word gives its bits. -/
theorem packWord_roundBits_magOf {w : Word} (h : isFinite w = true) :
    packWord (signOf w) (roundBits (magOf w) 0) = w := by
  obtain ⟨q, k, hscaled, hq, hmag, hbits, hw⟩ := exists_isScaled_of_isFinite h
  have hround : roundBits (q * 2 ^ k) 0 = min infBits (k * 2 ^ 52 + q) := roundBits_of_isScaled hscaled hq 0
  rw [hmag, hround, Nat.min_eq_right hbits.le, hw]

end Sys2Proof.Machine
end

section
/-! PROOFS. The sum and the product of finite words, and their exact cases (40_numerics.md R81 to R84, R92). -/

namespace Sys2Proof.Machine

/-! ### The sum -/

theorem signedMag_sumSign (a b : Word) :
    signedMag (sumSign a b) (valueOf a + valueOf b).natAbs = valueOf a + valueOf b := by
  unfold sumSign
  generalize valueOf a + valueOf b = sum
  split
  · next hzero =>
    subst hzero
    cases signOf a && signOf b <;> rfl
  · simp only [signedMag, decide_eq_true_eq]
    split <;> omega

/-- Settles O6: the exact sum is the signed magnitude that is rounded, and it is rounded to the nearest even. -/
theorem sumIsRoundedOnceToNearestEven : Obligations.SumIsRoundedOnceToNearestEven := by
  intro a b ha hb
  have hmiddle : isFinite (packWord (sumSign a b) (roundBits (valueOf a + valueOf b).natAbs 0)) = false →
      (2 ^ 54 - 1) * 2 ^ 2044 ≤ |valueOf a + valueOf b| := fun hinf => middle_le_abs_of_not_isFinite hinf rfl
  refine ⟨_, addNum_of_finite ha hb, fun hfin z _ => ?_,
    fun hinf => ⟨isInf_of_rounded_not_isFinite hinf, hmiddle hinf, ?_⟩, fun hlt => ?_⟩
  · have hnear := packWord_roundBits_nearest hfin z
    rwa [signedMag_sumSign, pow_zero, mul_one, mul_one] at hnear
  · have hne : valueOf a + valueOf b ≠ 0 :=
      abs_pos.1 ((mul_pos (by decide) (pow_pos two_pos _)).trans_le (hmiddle hinf))
    rw [signOf_packWord (roundBits_lt_two_pow _ _), sumSign, if_neg hne, decide_eq_true_iff]
  · exact Bool.of_not_eq_false fun hinf => hlt.not_ge (hmiddle hinf)

/-! ### The product -/

/-- Settles O7: the exact product is the signed magnitude that is rounded, and it is rounded to the nearest even. -/
theorem productIsRoundedOnceToNearestEven : Obligations.ProductIsRoundedOnceToNearestEven := by
  intro a b ha hb
  have hmiddle : isFinite (packWord (signOf a != signOf b) (roundBits (magOf a * magOf b) 1074)) = false →
      (2 ^ 54 - 1) * 2 ^ 3118 ≤ |valueOf a * valueOf b| := fun hinf =>
    middle_le_abs_of_not_isFinite hinf (by rw [valueOf_mul_valueOf, natAbs_signedMag])
  refine ⟨_, mulNum_of_finite ha hb, signOf_packWord (roundBits_lt_two_pow _ _), fun hfin z _ => ?_,
    fun hinf => ⟨isInf_of_rounded_not_isFinite hinf, hmiddle hinf⟩, fun hlt => ?_⟩
  · rw [valueOf_mul_valueOf]
    obtain ⟨hle, htie⟩ := packWord_roundBits_nearest hfin z
    exact ⟨hle, fun heq hne => htie heq fun hscaled => hne (mul_right_cancel₀ (pow_ne_zero 1074 two_ne_zero) hscaled)⟩
  · exact Bool.of_not_eq_false fun hinf => hlt.not_ge (hmiddle hinf)

/-! ### Exact sums -/

theorem addNum_of_sum_zero {a b : Word} (ha : isFinite a = true) (hb : isFinite b = true)
    (hsum : valueOf a + valueOf b = 0) : addNum a b = some (packWord (signOf a && signOf b) 0) := by
  rw [addNum_of_finite ha hb, sumSign, if_pos hsum, hsum, Int.natAbs_zero, roundBits_zero]

theorem isZero_of_sum_zero_of_negative {a b : Word} (hsum : valueOf a + valueOf b = 0) (ha : signOf a = true)
    (hb : signOf b = true) : isZero a = true := by
  rw [← magOf_eq_zero_iff]
  simp only [valueOf_eq_signedMag, signedMag, ha, hb, if_true] at hsum
  omega

theorem addNum_of_zero_right {x z : Word} (hx : isNaN x = false) (hx0 : isZero x = false) (hz : isZero z = true) :
    addNum x z = some x := by
  have hzfin := isFinite_of_isZero hz
  obtain hinf | hfin := isInf_or_isFinite hx
  · exact addNum_of_inf_left hinf (isNaN_of_isFinite hzfin) fun h => by simp [isInf_of_isFinite hzfin] at h
  · have hsum : valueOf x + valueOf z = valueOf x := by rw [valueOf_eq_zero_iff.2 hz, add_zero]
    have hne : valueOf x ≠ 0 := fun h => by simp [valueOf_eq_zero_iff.1 h] at hx0
    have hsign : decide (valueOf x < 0) = signOf x := by simp [valueOf_neg_iff, hx0]
    rw [addNum_of_finite hfin hzfin, sumSign, hsum, if_neg hne, natAbs_valueOf, hsign, packWord_roundBits_magOf hfin]

/-- Settles O9: from the cases of the sum; a nonzero operand rules out an exact zero of two negatives. -/
theorem sumSpecialCases : Obligations.SumSpecialCases := by
  refine ⟨fun a b ha hb => ?_, fun a b ha hb hs => addNum_of_inf_left ha (isNaN_of_isInf hb) fun _ => hs,
    fun a b ha hb hne hsum => ?_, addNum_of_sum_zero rfl rfl rfl, addNum_of_sum_zero rfl rfl rfl,
    addNum_of_sum_zero rfl rfl rfl, addNum_of_sum_zero rfl rfl rfl, fun x z hx hx0 hz => ?_⟩
  · exact ⟨addNum_of_inf_left ha (isNaN_of_isFinite hb) fun h => by simp [isInf_of_isFinite hb] at h,
      addNum_of_inf_right hb ha⟩
  · have hsign : (signOf a && signOf b) = false := by
      by_contra hneg
      simp only [Bool.not_eq_false, Bool.and_eq_true] at hneg
      simp [isZero_of_sum_zero_of_negative hsum hneg.1 hneg.2] at hne
    rw [addNum_of_sum_zero ha hb hsum, hsign]
    rfl
  · rw [addNum_comm z x]
    exact ⟨addNum_of_zero_right hx hx0 hz, addNum_of_zero_right hx hx0 hz⟩

/-! ### Differences -/

theorem fsub_of_addNum {q : Nat} {a b r : Word} (h : addNum a (fneg b) = some r) : fsub q a b = r := by
  rw [fsub, fadd, h, Option.getD_some]

theorem fsub_self {x : Word} (h : isFinite x = true) (q : Nat) : fsub q x x = 0x0000000000000000#64 := by
  have hsum : valueOf x + valueOf (fneg x) = 0 := by rw [valueOf_fneg, add_neg_cancel]
  refine fsub_of_addNum ?_
  rw [addNum_of_sum_zero h ((isFinite_fneg x).trans h) hsum, signOf_fneg, Bool.and_not_self]
  rfl

/-- Settles O10: the negation bit by bit, and the listed differences as sums with the negation. -/
theorem subtractionIsSumOfNegation : Obligations.SubtractionIsSumOfNegation := by
  refine ⟨fun q a b => rfl, fun a k hk => getLsbD_fneg a hk, fun q x hx => fsub_self hx q, fun q => ⟨?_, ?_, ?_⟩,
    fun q a b ha hb hs => ?_⟩
  · exact fsub_self rfl q
  · exact fsub_of_addNum (addNum_of_sum_zero rfl rfl rfl)
  · exact fsub_of_addNum (addNum_of_sum_zero rfl rfl rfl)
  · rw [fsub, isNaN_fadd_iff]
    exact addNum_of_cancel ha ((isInf_fneg b).trans hb) (by simp [hs])

/-! ### Exact products -/

/-- `2^-r` is a significand of one bit at its scale (00_scope.md R16). -/
theorem pow2Neg_eq_packWord {r : Nat} (h : r ≤ 22) : pow2Neg r = packWord false ((1022 - r) * 2 ^ 52 + 2 ^ 52) := by
  apply BitVec.eq_of_toNat_eq
  rw [toNat_packWord (by omega), pow2Neg, BitVec.toNat_ofNat, Nat.mod_eq_of_lt (by omega)]
  simp only [Bool.false_eq_true, if_false]
  omega

theorem isFinite_pow2Neg {r : Nat} (h : r ≤ 22) : isFinite (pow2Neg r) = true := by
  rw [pow2Neg_eq_packWord h, isFinite_packWord_iff (by omega)]
  unfold infBits
  omega

theorem signOf_pow2Neg {r : Nat} (h : r ≤ 22) : signOf (pow2Neg r) = false := by
  rw [pow2Neg_eq_packWord h, signOf_packWord (by omega)]

theorem magOf_pow2Neg {r : Nat} (h : r ≤ 22) : magOf (pow2Neg r) = 2 ^ (1074 - r) := by
  rw [pow2Neg_eq_packWord h, magOf_packWord ⟨by decide, .inr (Nat.le_refl _)⟩ (by omega), ← Nat.pow_add]
  congr 1
  omega

/-- Multiplying by `2^-r` lowers the scale by `r` where the scale allows it (40_numerics.md R92). -/
theorem mulNum_pow2Neg {x : Word} {q k r : Nat} (hr : r ≤ 22) (hx : isFinite x = true) (hscaled : IsScaled q k)
    (hq : q < 2 ^ 53) (hmag : magOf x = q * 2 ^ k) (hbits : k * 2 ^ 52 + q < infBits) (hrk : r ≤ k) :
    mulNum x (pow2Neg r) = some (packWord (signOf x) ((k - r) * 2 ^ 52 + q)) := by
  have hproduct : magOf x * magOf (pow2Neg r) = q * 2 ^ (k - r + 1074) := by
    rw [hmag, magOf_pow2Neg hr, Nat.mul_assoc, ← Nat.pow_add]
    congr 2
    omega
  have hscaled' : IsScaled q (k - r) := ⟨hscaled.1, hscaled.2.imp_left fun hk => by omega⟩
  rw [mulNum_of_finite hx (isFinite_pow2Neg hr), hproduct, roundBits_of_isScaled hscaled' hq, signOf_pow2Neg hr,
    Bool.bne_false, Nat.min_eq_right (by omega)]

theorem mulNum_one_left {x : Word} (hx : isNaN x = false) : mulNum one64 x = some x := by
  rw [mulNum_comm]
  obtain hinf | hfin := isInf_or_isFinite hx
  · have hsign : (signOf x != signOf one64) = signOf x := Bool.bne_false _
    rw [mulNum_of_inf hinf rfl rfl, hsign, packWord_infBits_of_isInf hinf]
  · obtain ⟨q, k, hscaled, hq, hmag, hbits, hw⟩ := exists_isScaled_of_isFinite hfin
    have hone : one64 = pow2Neg 0 := rfl
    rw [hone, mulNum_pow2Neg (Nat.zero_le _) hfin hscaled hq hmag hbits (Nat.zero_le k), Nat.sub_zero, hw]

/-- A result of at least `2^52` units, the smallest normal value, leaves room for the scale. -/
theorem exists_exact_mulNum_pow2Neg {x : Word} {r : Nat} (hr : r ≤ 22) (hx : isFinite x = true)
    (hnormal : 2 ^ (52 + r) ≤ magOf x) :
    ∃ y, mulNum x (pow2Neg r) = some y ∧ valueOf y * 2 ^ r = valueOf x := by
  obtain ⟨q, k, hscaled, hq, hmag, hbits, hw⟩ := exists_isScaled_of_isFinite hx
  have hrk : r ≤ k := by
    have hpow : 2 ^ (52 + r) < 2 ^ (53 + k) := by
      calc 2 ^ (52 + r) ≤ q * 2 ^ k := hmag ▸ hnormal
        _ < 2 ^ 53 * 2 ^ k := Nat.mul_lt_mul_of_pos_right hq (Nat.two_pow_pos k)
        _ = 2 ^ (53 + k) := (Nat.pow_add _ _ _).symm
    have := (Nat.pow_lt_pow_iff_right (by decide)).1 hpow
    omega
  have hscaled' : IsScaled q (k - r) := ⟨hscaled.1, hscaled.2.imp_left fun hk => by omega⟩
  refine ⟨_, mulNum_pow2Neg hr hx hscaled hq hmag hbits hrk, ?_⟩
  have hscale : q * 2 ^ (k - r) * 2 ^ r = magOf x := by
    rw [Nat.mul_assoc, ← Nat.pow_add, Nat.sub_add_cancel hrk, hmag]
  have hlt : (k - r) * 2 ^ 52 + q < 2 ^ 63 :=
    (Nat.add_le_add_right (Nat.mul_le_mul_right _ (Nat.sub_le k r)) q).trans_lt (hbits.trans infBits_lt)
  rw [valueOf_packWord hlt, magOf_packWord hscaled' hlt, valueOf_eq_signedMag x, ← hscale,
    signedMag_mul _ (q * 2 ^ (k - r)) (2 ^ r), Int.natCast_pow]
  rfl

theorem mulNum_of_zero_left {a b : Word} (ha : isZero a = true) (hb : isFinite b = true) :
    mulNum a b = some (packWord (signOf a != signOf b) 0) := by
  rw [mulNum_of_finite (isFinite_of_isZero ha) hb, magOf_eq_zero_iff.2 ha, Nat.zero_mul, roundBits_zero]

theorem isZero_packWord_zero (neg : Bool) : isZero (packWord neg 0) = true := by
  rw [isZero_iff, expOf_packWord (by decide), fracOf_packWord (by decide)]
  decide

/-- Settles O11: a power of two moves the scale alone, and the listed cases of the product. -/
theorem exactProductsAndCommutation : Obligations.ExactProductsAndCommutation := by
  refine ⟨fun x => mulNum_one_left, fun x r hr hx hnormal => exists_exact_mulNum_pow2Neg hr hx ?_, addNum_comm,
    mulNum_comm, fun a b ha hb hz => ?_, fun a b ha hb => ?_⟩
  · rw [abs_valueOf] at hnormal
    exact_mod_cast hnormal
  · exact ⟨_, mulNum_of_inf ha hb hz, isInf_packWord_infBits _, signOf_packWord infBits_lt⟩
  · exact ⟨_, mulNum_of_zero_left ha hb, isZero_packWord_zero _, signOf_packWord (by decide)⟩

end Sys2Proof.Machine
end

section
/-! PROOFS. Bit reversal of an index (00_scope.md R14): its bits, that it is its own inverse, how many indices it fixes
(41_bitrev.md R107), and the reversed counter of the scan (R103). -/

namespace Sys2Proof.Machine

theorem revBits_lt (n i : Nat) : revBits n i < 2 ^ n := by
  induction n generalizing i with
  | zero => exact Nat.one_pos
  | succ n ih =>
    have hrest := ih (i / 2)
    obtain hbit | hbit := Nat.mod_two_eq_zero_or_one i <;> simp only [revBits, hbit, Nat.pow_succ] <;> omega

/-- The model's recursion takes the lowest bit of `i` to the top; equally the highest bit goes to the bottom. -/
theorem revBits_succ_eq_low (n i : Nat) : revBits (n + 1) i = 2 * revBits n i + i / 2 ^ n % 2 := by
  induction n generalizing i with
  | zero => simp [revBits]
  | succ n ih =>
    have htop : i / 2 / 2 ^ n = i / 2 ^ (n + 1) := by rw [Nat.div_div_eq_div_mul, Nat.pow_succ']
    calc revBits (n + 2) i
        = i % 2 * 2 ^ (n + 1) + revBits (n + 1) (i / 2) := rfl
      _ = i % 2 * 2 ^ (n + 1) + (2 * revBits n (i / 2) + i / 2 ^ (n + 1) % 2) := by rw [ih, htop]
      _ = 2 * (i % 2 * 2 ^ n + revBits n (i / 2)) + i / 2 ^ (n + 1) % 2 := by ring
      _ = 2 * revBits (n + 1) i + i / 2 ^ (n + 1) % 2 := rfl

/-- `rev_n` reads the index backwards (00_scope.md R14). -/
theorem testBit_revBits {n b : Nat} (i : Nat) (hb : b < n) : (revBits n i).testBit b = i.testBit (n - 1 - b) := by
  induction n generalizing b with
  | zero => omega
  | succ n ih =>
    rw [revBits_succ_eq_low]
    cases b with
    | zero => simp [Nat.testBit_eq_decide_div_mod_eq]
    | succ b =>
      have hhalf : (2 * revBits n i + i / 2 ^ n % 2) / 2 = revBits n i := by omega
      rw [Nat.testBit_succ, hhalf, ih (by omega)]
      congr 1
      omega

theorem revBits_revBits {n i : Nat} (hi : i < 2 ^ n) : revBits n (revBits n i) = i := by
  refine Nat.eq_of_testBit_eq fun b => ?_
  by_cases hb : b < n
  · rw [testBit_revBits _ hb, testBit_revBits _ (by omega)]
    congr 1
    omega
  · have hhigh : 2 ^ n ≤ 2 ^ b := Nat.pow_le_pow_right Nat.two_pos (by omega)
    rw [Nat.testBit_lt_two_pow ((revBits_lt n _).trans_le hhigh), Nat.testBit_lt_two_pow (hi.trans_le hhigh)]

/-- The inner loop of the scan turns `rev_n(k)` into `rev_n(k + 1)` (41_bitrev.md R103). -/
theorem revAdvance_revBits {n fuel : Nat} (k : Nat) (hfuel : n ≤ fuel) :
    revAdvance fuel (2 ^ n / 2) (revBits n k) = revBits n (k + 1) := by
  induction n generalizing fuel k with
  | zero => cases fuel <;> rfl
  | succ n ih =>
    obtain ⟨fuel, rfl⟩ : ∃ f, fuel = f + 1 := ⟨fuel - 1, by omega⟩
    have htop : 2 ^ (n + 1) / 2 = 2 ^ n := by omega
    have hpos := Nat.two_pow_pos n
    have hlow := revBits_lt n (k / 2)
    rw [htop, revAdvance, revBits, revBits]
    obtain heven | hodd := Nat.mod_two_eq_zero_or_one k
    · obtain ⟨hbit, hrest⟩ : (k + 1) % 2 = 1 ∧ (k + 1) / 2 = k / 2 := by omega
      rw [heven, hbit, hrest, if_neg (by omega)]
      omega
    · obtain ⟨hbit, hrest⟩ : (k + 1) % 2 = 0 ∧ (k + 1) / 2 = k / 2 + 1 := by omega
      rw [hodd, hbit, hrest, if_pos (by omega), Nat.one_mul, Nat.zero_mul, Nat.add_sub_cancel_left, Nat.zero_add]
      exact ih (k / 2) (by omega)

/-- `rev_n` reads the low `n` bits alone. -/
theorem revBits_mul_two_pow_add (n a m : Nat) : revBits n (a * 2 ^ n + m) = revBits n m := by
  induction n generalizing m with
  | zero => rfl
  | succ n ih =>
    have hpow : a * 2 ^ (n + 1) = 2 * (a * 2 ^ n) := by ring
    obtain ⟨hbit, hrest⟩ : (a * 2 ^ (n + 1) + m) % 2 = m % 2 ∧ (a * 2 ^ (n + 1) + m) / 2 = a * 2 ^ n + m / 2 := by
      omega
    rw [revBits, hbit, hrest, ih, ← revBits]

/-! ### How many indices are fixed, and how many lie below their reversal (41_bitrev.md R107) -/

/-- The index of `n + 2` bits with top bit `a`, middle `m` and lowest bit `b`. -/
def sandwich (n a m b : Nat) : Nat := a * 2 ^ (n + 1) + 2 * m + b

theorem sandwich_lt {n a m b : Nat} (ha : a < 2) (hm : m < 2 ^ n) (hb : b < 2) : sandwich n a m b < 2 ^ (n + 2) := by
  have hpow : 2 ^ (n + 2) = 2 * 2 ^ (n + 1) := Nat.pow_succ'
  obtain rfl | rfl : a = 0 ∨ a = 1 := by omega
  all_goals simp only [sandwich]; omega

theorem sandwich_low {n a m b : Nat} (hb : b < 2) :
    sandwich n a m b % 2 = b ∧ sandwich n a m b / 2 = a * 2 ^ n + m := by
  have hpow : a * 2 ^ (n + 1) = 2 * (a * 2 ^ n) := by ring
  unfold sandwich
  omega

theorem exists_sandwich {n i : Nat} (hi : i < 2 ^ (n + 2)) :
    ∃ a m b, a < 2 ∧ m < 2 ^ n ∧ b < 2 ∧ i = sandwich n a m b := by
  refine ⟨i / 2 / 2 ^ n, i / 2 % 2 ^ n, i % 2, ?_, Nat.mod_lt _ (Nat.two_pow_pos n), Nat.mod_lt _ Nat.two_pos, ?_⟩
  · have hpow : 2 ^ (n + 2) = 2 * 2 ^ (n + 1) := Nat.pow_succ'
    rw [Nat.div_lt_iff_lt_mul (Nat.two_pow_pos n)]
    omega
  · have hsplit := Nat.div_add_mod' (i / 2) (2 ^ n)
    have hpow : i / 2 / 2 ^ n * 2 ^ (n + 1) = 2 * (i / 2 / 2 ^ n * 2 ^ n) := by ring
    unfold sandwich
    omega

/-- Reversal exchanges the outer bits and reverses the middle. -/
theorem revBits_sandwich {n a m b : Nat} (ha : a < 2) (hm : m < 2 ^ n) (hb : b < 2) :
    revBits (n + 2) (sandwich n a m b) = sandwich n b (revBits n m) a := by
  obtain ⟨hbit, hrest⟩ := sandwich_low (n := n) (a := a) (m := m) hb
  have htop : (a * 2 ^ n + m) / 2 ^ n = a := by
    rw [Nat.add_comm, Nat.add_mul_div_right _ _ (Nat.two_pow_pos n), Nat.div_eq_of_lt hm, Nat.zero_add]
  rw [revBits, hbit, hrest, revBits_succ_eq_low, htop, revBits_mul_two_pow_add, Nat.mod_eq_of_lt ha, sandwich,
    Nat.add_assoc]

/-- The indices that `rev_n` fixes. -/
def fixedIndices (n : Nat) : Finset Nat := (Finset.range (2 ^ n)).filter fun i => revBits n i = i

theorem mem_fixedIndices {n i : Nat} : i ∈ fixedIndices n ↔ i < 2 ^ n ∧ revBits n i = i := by
  simp [fixedIndices]

/-- The fixed indices of `n + 2` bits are the fixed ones of `n` bits between two equal bits. -/
theorem fixedIndices_add_two (n : Nat) :
    fixedIndices (n + 2) = (Finset.range 2 ×ˢ fixedIndices n).image fun p => sandwich n p.1 p.2 p.1 := by
  ext i
  simp only [Finset.mem_image, Finset.mem_product, Finset.mem_range, Prod.exists, mem_fixedIndices]
  constructor
  · rintro ⟨hi, hfix⟩
    obtain ⟨a, m, b, ha, hm, hb, rfl⟩ := exists_sandwich hi
    rw [revBits_sandwich ha hm hb] at hfix
    obtain rfl : a = b := by
      rw [← (sandwich_low (n := n) (a := b) (m := revBits n m) ha).1, hfix, (sandwich_low hb).1]
    refine ⟨a, m, ⟨ha, hm, ?_⟩, rfl⟩
    simp only [sandwich] at hfix
    omega
  · rintro ⟨a, m, ⟨ha, hm, hfix⟩, rfl⟩
    exact ⟨sandwich_lt ha hm ha, by rw [revBits_sandwich ha hm ha, hfix]⟩

theorem card_fixedIndices_add_two (n : Nat) : (fixedIndices (n + 2)).card = 2 * (fixedIndices n).card := by
  rw [fixedIndices_add_two, Finset.card_image_of_injOn, Finset.card_product, Finset.card_range]
  rintro ⟨a, m⟩ hp ⟨a', m'⟩ hp' heq
  simp only [Finset.coe_product, Finset.coe_range, Set.mem_prod, Set.mem_Iio] at hp hp' heq
  obtain rfl : a = a' := by
    rw [← (sandwich_low (n := n) (a := a) (m := m) hp.1).1, heq, (sandwich_low hp'.1).1]
  simp only [sandwich] at heq
  simp only [Prod.mk.injEq, true_and]
  omega

theorem card_fixedIndices (n : Nat) : (fixedIndices n).card = 2 ^ ((n + 1) / 2) := by
  induction n using Nat.twoStepInduction with
  | zero => rfl
  | one => rfl
  | more n ih _ =>
    have hhalf : (n + 2 + 1) / 2 = (n + 1) / 2 + 1 := by omega
    rw [card_fixedIndices_add_two, ih, hhalf, Nat.pow_succ']

/-- The indices below their reversal. -/
def lowerIndices (n : Nat) : Finset Nat := (Finset.range (2 ^ n)).filter fun i => i < revBits n i

/-- The indices above their reversal. -/
def upperIndices (n : Nat) : Finset Nat := (Finset.range (2 ^ n)).filter fun i => revBits n i < i

/-- Reversal pairs the lower indices with the upper ones. -/
theorem upperIndices_eq_image (n : Nat) : upperIndices n = (lowerIndices n).image (revBits n) := by
  ext i
  simp only [upperIndices, lowerIndices, Finset.mem_image, Finset.mem_filter, Finset.mem_range]
  constructor
  · rintro ⟨hi, hlt⟩
    exact ⟨revBits n i, ⟨revBits_lt n i, by rwa [revBits_revBits hi]⟩, revBits_revBits hi⟩
  · rintro ⟨j, ⟨hj, hlt⟩, rfl⟩
    exact ⟨revBits_lt n j, by rwa [revBits_revBits hj]⟩

theorem card_upperIndices (n : Nat) : (upperIndices n).card = (lowerIndices n).card := by
  rw [upperIndices_eq_image, Finset.card_image_of_injOn]
  refine Set.LeftInvOn.injOn (f₁' := revBits n) fun i hi => ?_
  rw [lowerIndices, Finset.coe_filter] at hi
  exact revBits_revBits (Finset.mem_range.1 hi.1)

/-- Every index is lower, upper or fixed. -/
theorem two_mul_card_lowerIndices_add (n : Nat) : 2 * (lowerIndices n).card + 2 ^ ((n + 1) / 2) = 2 ^ n :=
  calc 2 * (lowerIndices n).card + 2 ^ ((n + 1) / 2)
      = (lowerIndices n).card + (upperIndices n).card + (fixedIndices n).card := by
        rw [Nat.two_mul, card_upperIndices, card_fixedIndices]
    _ = ∑ _i ∈ Finset.range (2 ^ n), 1 := by
        simp only [lowerIndices, upperIndices, fixedIndices, Finset.card_filter, ← Finset.sum_add_distrib]
        refine Finset.sum_congr rfl fun i _ => ?_
        obtain hlt | heq | hgt := lt_trichotomy i (revBits n i)
        · simp [hlt, hlt.not_gt, hlt.ne']
        · simp [← heq]
        · simp [hgt, hgt.not_gt, hgt.ne]
    _ = 2 ^ n := by simp

end Sys2Proof.Machine
end

section
/-! PROOFS. The scan `seq_permute` (41_bitrev.md R102 to R107) as one exchange per pair of an index and its reversal,
what the exchanges do to every word of DMEM, and the command PERMUTE (R105). -/

namespace Sys2Proof.Machine

/-! ### One exchange -/

/-- SWAPC moves samples as wholes: word `i` is the same part of the other sample (41_bitrev.md R100). -/
theorem D_swapc (a b : Nat) (s : State) (i : Nat) :
    (swapc a b s).D i = s.D (2 * Equiv.swap a b (i / 2) + i % 2) := by
  have hparity : ∀ x y : Nat, 2 * x ≠ 2 * y + 1 := fun x y => by omega
  rw [Equiv.swap_comm, Equiv.swap_apply_def]
  obtain ⟨c, rfl | rfl⟩ := i.even_or_odd'
  · simp only [swapc, State.D_setD, hparity, if_false, Nat.mul_right_inj two_ne_zero,
      Nat.mul_div_cancel_left _ Nat.two_pos, Nat.mul_mod_right, Nat.add_zero]
    split_ifs <;> rfl
  · obtain ⟨hsample, hpart⟩ : (2 * c + 1) / 2 = c ∧ (2 * c + 1) % 2 = 1 := by omega
    simp only [swapc, State.D_setD, (hparity _ _).symm, if_false, Nat.add_right_cancel_iff,
      Nat.mul_right_inj two_ne_zero, hsample, hpart]
    split_ifs <;> rfl

/-- SWAPC writes DMEM alone. -/
theorem swapc_frame (a b : Nat) (s : State) : swapc a b s = { s with dmem := (swapc a b s).dmem } := rfl

/-- Settles O12: the four words read by `D_swapc`, the others outside the exchange. -/
theorem swapcExchangesTwoSamples : Obligations.SwapcExchangesTwoSamples := by
  intro s a b hab hb
  have hrange : (MicroOp.swapc a b).inRange s.cfg = true := by
    simp only [MicroOp.inRange, Bool.and_eq_true, decide_eq_true_eq]
    omega
  refine ⟨swapc a b s, by rw [perform_eq, if_pos hrange]; rfl, ?_, ?_, ?_, ?_, fun i ha hb => ?_, swapc_frame a b s⟩
  · simp [D_swapc]
  · simp [D_swapc, Nat.mul_add_div]
  · simp [D_swapc]
  · simp [D_swapc, Nat.mul_add_div]
  · rw [D_swapc, Equiv.swap_apply_of_ne_of_ne ha hb, Nat.div_add_mod]

/-! ### A list of disjoint exchanges -/

/-- Where a sample comes from after exchanging each `a` of `as` with its partner `f a`. -/
def exchangedWith (f : Nat → Nat) (as : List Nat) (c : Nat) : Nat := if c ∈ as ∨ f c ∈ as then f c else c

/-- One more pair, disjoint from the others. -/
theorem swap_exchangedWith {f : Nat → Nat} (hf : f.Involutive) {a : Nat} {as : List Nat} (ha : a ∉ as)
    (hfa : f a ∉ as) (c : Nat) : Equiv.swap a (f a) (exchangedWith f as c) = exchangedWith f (a :: as) c := by
  have hpartner : f c = a ↔ c = f a := hf.eq_iff
  have hmem : (c ∈ a :: as ∨ f c ∈ a :: as) ↔ (c = a ∨ c = f a) ∨ c ∈ as ∨ f c ∈ as := by
    rw [List.mem_cons, List.mem_cons, hpartner, or_or_or_comm]
  unfold exchangedWith
  by_cases hold : c ∈ as ∨ f c ∈ as
  · have hne : f c ≠ a := fun h => hold.elim (fun hc => hfa (hpartner.1 h ▸ hc)) fun hc => ha (h ▸ hc)
    have hne' : f c ≠ f a := fun h => hold.elim (fun hc => ha (hf.injective h ▸ hc)) fun hc => hfa (h ▸ hc)
    rw [if_pos hold, if_pos (hmem.2 (.inr hold)), Equiv.swap_apply_of_ne_of_ne hne hne']
  · rw [if_neg hold]
    by_cases hnew : c = a ∨ c = f a
    · rw [if_pos (hmem.2 (.inl hnew))]
      rcases hnew with rfl | rfl
      · rw [Equiv.swap_apply_left]
      · rw [Equiv.swap_apply_right, hf a]
    · rw [if_neg fun h => (hmem.1 h).elim hnew hold]
      exact Equiv.swap_apply_of_ne_of_ne (fun h => hnew (.inl h)) fun h => hnew (.inr h)

theorem D_effects_exchanges {f : Nat → Nat} (hf : f.Involutive) {as : List Nat} (hnodup : as.Nodup)
    (hlt : ∀ a ∈ as, a < f a) (s : State) (i : Nat) :
    (effects (as.map fun a => .swapc a (f a)) s).D i = s.D (2 * exchangedWith f as (i / 2) + i % 2) := by
  induction as generalizing s with
  | nil => simp [exchangedWith, Nat.div_add_mod]
  | cons a as ih =>
    obtain ⟨ha, hnodup⟩ := List.nodup_cons.1 hnodup
    have hfa : f a ∉ as := fun hmem => by
      have hup := hlt a (by simp)
      have hdown := hlt (f a) (by simp [hmem])
      rw [hf a] at hdown
      omega
    rw [List.map_cons, effects_cons, ih hnodup fun b hb => hlt b (by simp [hb])]
    change (swapc a (f a) s).D _ = _
    rw [D_swapc, ← swap_exchangedWith hf ha hfa]
    congr 2
    · congr 2
      omega
    · omega

/-! ### The scan -/

/-- The indices at which the scan swaps, in the scan's order. -/
def swapIndices (n : Nat) : List Nat := (List.range (2 ^ n)).filter fun a => a < revBits n a

theorem mem_swapIndices {n a : Nat} : a ∈ swapIndices n ↔ a < 2 ^ n ∧ a < revBits n a := by simp [swapIndices]

theorem nodup_swapIndices (n : Nat) : (swapIndices n).Nodup := List.nodup_range.filter _

/-- The scan's loop invariant (41_bitrev.md R103): the second counter is the reversal of the first. -/
theorem seqPermuteFrom_eq_map (n count k : Nat) :
    seqPermuteFrom (2 ^ n) count k (revBits n k) =
      ((List.range' k count).filter fun a => a < revBits n a).map fun a => .swapc a (revBits n a) := by
  induction count generalizing k with
  | zero => rfl
  | succ count ih =>
    rw [seqPermuteFrom, log2_two_pow, revAdvance_revBits k (Nat.le_succ n), ih, List.range'_succ, List.filter_cons]
    by_cases hlt : k < revBits n k <;> simp [hlt]

theorem revBits_zero_right (n : Nat) : revBits n 0 = 0 := by
  induction n with
  | zero => rfl
  | succ n ih => simp [revBits, ih]

theorem seqPermute_eq_map (n : Nat) :
    seqPermute (2 ^ n) = (swapIndices n).map fun a => .swapc a (revBits n a) := by
  have hstart := seqPermuteFrom_eq_map n (2 ^ n) 0
  rwa [revBits_zero_right, ← List.range_eq_range'] at hstart

/-- Where PERMUTE of `2^n` samples takes sample `c` from: `rev_n(c)` inside the signal, `c` beyond it. -/
def permutedSample (n c : Nat) : Nat := if c < 2 ^ n then revBits n c else c

theorem permutedSample_of_lt {n c : Nat} (h : c < 2 ^ n) : permutedSample n c = revBits n c := if_pos h

theorem permutedSample_of_le {n c : Nat} (h : 2 ^ n ≤ c) : permutedSample n c = c := if_neg h.not_gt

theorem permutedSample_involutive (n : Nat) : (permutedSample n).Involutive := fun c => by
  obtain hlt | hle := Nat.lt_or_ge c (2 ^ n)
  · rw [permutedSample_of_lt hlt, permutedSample_of_lt (revBits_lt n c), revBits_revBits hlt]
  · rw [permutedSample_of_le hle, permutedSample_of_le hle]

/-- The scan's exchanges reach every sample that its reversal moves. -/
theorem exchangedWith_swapIndices (n c : Nat) :
    exchangedWith (permutedSample n) (swapIndices n) c = permutedSample n c := by
  unfold exchangedWith
  split
  · rfl
  · next hnot =>
    rw [mem_swapIndices, mem_swapIndices, not_or] at hnot
    obtain hlt | hle := Nat.lt_or_ge c (2 ^ n)
    · rw [permutedSample_of_lt hlt, revBits_revBits hlt] at hnot
      have := revBits_lt n c
      rw [permutedSample_of_lt hlt]
      omega
    · rw [permutedSample_of_le hle]

/-- Where PERMUTE of `2^n` samples takes word `i` from: the same part of the sample it takes. -/
def permutedWord (n i : Nat) : Nat := 2 * permutedSample n (i / 2) + i % 2

theorem permutedWord_part (n c : Nat) {p : Nat} (hp : p < 2) :
    permutedWord n (2 * c + p) = 2 * permutedSample n c + p := by
  obtain ⟨hsample, hpart⟩ : (2 * c + p) / 2 = c ∧ (2 * c + p) % 2 = p := by omega
  rw [permutedWord, hsample, hpart]

theorem permutedWord_involutive (n : Nat) : (permutedWord n).Involutive := fun i => by
  conv_lhs => rw [permutedWord.eq_def n i]
  rw [permutedWord_part n _ (Nat.mod_lt i Nat.two_pos), permutedSample_involutive, Nat.div_add_mod]

theorem permutedWord_even {n c : Nat} (h : c < 2 ^ n) : permutedWord n (2 * c) = 2 * revBits n c := by
  rw [← permutedSample_of_lt h]
  exact permutedWord_part n c Nat.two_pos

theorem permutedWord_odd {n c : Nat} (h : c < 2 ^ n) : permutedWord n (2 * c + 1) = 2 * revBits n c + 1 := by
  rw [← permutedSample_of_lt h]
  exact permutedWord_part n c Nat.one_lt_two

theorem permutedWord_of_le {n i : Nat} (h : 2 * 2 ^ n ≤ i) : permutedWord n i = i := by
  rw [permutedWord, permutedSample_of_le (by omega), Nat.div_add_mod]

/-- The scan permutes the words of the signal and leaves the others (41_bitrev.md R101). -/
theorem D_effects_seqPermute (n : Nat) (s : State) (i : Nat) :
    (effects (seqPermute (2 ^ n)) s).D i = s.D (permutedWord n i) := by
  have hpairs : seqPermute (2 ^ n) = (swapIndices n).map fun a => .swapc a (permutedSample n a) := by
    rw [seqPermute_eq_map]
    exact List.map_congr_left fun a ha => by rw [permutedSample_of_lt (mem_swapIndices.1 ha).1]
  have hlt : ∀ a ∈ swapIndices n, a < permutedSample n a := fun a ha => by
    obtain ⟨hmem, hlt⟩ := mem_swapIndices.1 ha
    rwa [permutedSample_of_lt hmem]
  rw [hpairs, D_effects_exchanges (permutedSample_involutive n) (nodup_swapIndices n) hlt, exchangedWith_swapIndices,
    permutedWord]

theorem effects_swapc_frame {ops : List MicroOp} (h : ∀ op ∈ ops, ∃ a b, op = .swapc a b) (s : State) :
    effects ops s = { s with dmem := (effects ops s).dmem } := by
  induction ops generalizing s with
  | nil => rfl
  | cons op ops ih =>
    obtain ⟨a, b, rfl⟩ := h op (by simp)
    exact ih (fun o ho => h o (by simp [ho])) (swapc a b s)

theorem eq_swapc_of_mem_seqPermute {n : Nat} {op : MicroOp} (h : op ∈ seqPermute (2 ^ n)) :
    ∃ a b, op = .swapc a b ∧ a < b ∧ b < 2 ^ n ∧ b = revBits n a ∧ a = revBits n b := by
  rw [seqPermute_eq_map, List.mem_map] at h
  obtain ⟨a, ha, rfl⟩ := h
  obtain ⟨hmem, hlt⟩ := mem_swapIndices.1 ha
  exact ⟨a, revBits n a, rfl, hlt, revBits_lt n a, rfl, (revBits_revBits hmem).symm⟩

theorem nodup_seqPermute (n : Nat) : (seqPermute (2 ^ n)).Nodup := by
  rw [seqPermute_eq_map]
  exact (nodup_swapIndices n).map fun a b h => (MicroOp.swapc.inj h).1

/-- Settles O25: the scan has one exchange per index below its reversal. -/
theorem permuteExchangeCount : Obligations.PermuteExchangeCount := by
  refine ⟨fun n => ?_, card_fixedIndices, by decide⟩
  rw [seqPermute_eq_map, List.length_map]
  exact two_mul_card_lowerIndices_add n

/-! ### The command -/

/-- PERMUTE of an admitted length permutes the words, writes CMD and STATUS, and nothing else (41_bitrev.md R105). -/
theorem exec_permute {s : State} {n : Nat} (hb : s.busy = false) (hn : n ≤ s.cfg.logn) :
    ∃ t, exec (.permute (2 * 2 ^ n)) s = .next t ∧ (∀ i, t.D i = s.D (permutedWord n i)) ∧
      t = { s with
            dmem := t.dmem, busy := false, done := true, err := 0, cmd := encode (.permute (2 * 2 ^ n)), pend := [],
            resp := some .ok } := by
  have hplan : planOf s.cfg s.tag (.permute (2 * 2 ^ n)) = ⟨seqPermute (2 ^ n), .ok⟩ := by
    rw [planOf, planPermute, if_pos (lenOk_iff.2 ⟨n, hn, rfl⟩), Nat.mul_div_cancel_left _ Nat.two_pos]
  have hrange : ∀ op ∈ seqPermute (2 ^ n), op.inRange s.cfg = true := fun op h =>
    MicroOp.inRange_of_isWork (MicroOp.isWork_of_isSignalWork (isSignalWork_of_mem_seqPermute hn h))
  have hswaps : ∀ op ∈ seqPermute (2 ^ n), ∃ a b, op = .swapc a b := fun op h => by
    obtain ⟨a, b, hop, -⟩ := eq_swapc_of_mem_seqPermute h
    exact ⟨a, b, hop⟩
  refine ⟨_, by rw [exec_eq, hplan]; exact command_idle hb hrange, fun i => ?_, ?_⟩
  · rw [State.D_setPend, State.D_complete, D_effects_seqPermute, State.D_accept]
  · dsimp only
    rw [effects_swapc_frame hswaps]
    rfl

/-- Settles O23: the command's effect on the words, read at a sample and at its reversal. -/
theorem permuteMovesEverySample : Obligations.PermuteMovesEverySample := by
  refine ⟨fun s n hb hn => ?_, fun n i b _ hb => testBit_revBits i hb,
    fun n i hi => ⟨revBits_lt n i, revBits_revBits hi⟩, by decide, by decide, by decide, by decide, by decide⟩
  obtain ⟨t, hnext, hword, hframe⟩ := exec_permute hb hn
  have hsample : ∀ i < 2 ^ n, t.D (2 * i) = s.D (2 * revBits n i) ∧ t.D (2 * i + 1) = s.D (2 * revBits n i + 1) :=
    fun i hi => by rw [hword, hword, permutedWord_even hi, permutedWord_odd hi]; exact ⟨rfl, rfl⟩
  refine ⟨t, hnext, fun i hi => ?_, hsample, fun i hi => by rw [hword, permutedWord_of_le hi], ?_⟩
  · simpa only [revBits_revBits hi] using hsample (revBits n i) (revBits_lt n i)
  · rw [hframe]

/-- Settles O24: the permutation of the words is its own inverse. -/
theorem permuteTwiceRestores : Obligations.PermuteTwiceRestores := by
  refine ⟨fun s n i => ?_, fun n => ⟨nodup_seqPermute n, fun op => eq_swapc_of_mem_seqPermute⟩,
    fun s n hb hn => ?_⟩
  · rw [D_effects_seqPermute, D_effects_seqPermute, permutedWord_involutive]
  · obtain ⟨t, hfirst, hword, hframe⟩ := exec_permute hb hn
    obtain ⟨hidle, hcfg⟩ : t.busy = false ∧ t.cfg = s.cfg := by rw [hframe]; exact ⟨rfl, rfl⟩
    obtain ⟨u, hsecond, hword', -⟩ := exec_permute hidle (hcfg ▸ hn)
    exact ⟨t, u, hfirst, hsecond, fun i => by rw [hword', hword, permutedWord_involutive]⟩

end Sys2Proof.Machine
end

section
/-! PROOFS. The micro-operations of the twiddle generator and the tables (42_twiddle.md R112 to R120), and INIT, which
is made of them alone (R119). -/

namespace Sys2Proof.Machine

/-! ### Single micro-operations -/

theorem fpVal_wr_twstep (s : State) :
    fpVal (twstep s).wr = FpVal.sub (FpVal.mul (fpVal s.wr) (fpVal s.ct)) (FpVal.mul (fpVal s.wi) (fpVal s.st)) := by
  simp [twstep]

theorem fpVal_wi_twstep (s : State) :
    fpVal (twstep s).wi = FpVal.add (FpVal.mul (fpVal s.wi) (fpVal s.ct)) (FpVal.mul (fpVal s.wr) (fpVal s.st)) := by
  simp [twstep]

/-- Settles O16: TWSEED, TWLOAD and TSET by their definitions, TWSTEP by the values of its operations, TWSTORE by the
reads of a table after a write. -/
theorem twiddleMicroOperations : Obligations.TwiddleMicroOperations := by
  refine ⟨fun s row d hrow => ?_, fun s => ⟨twstep s, rfl, fpVal_wr_twstep s, fpVal_wi_twstep s, rfl⟩,
    fun s d e he => ?_, fun s d e he => ?_, fun s size hsize => ⟨tset size s, rfl, rfl, ?_, rfl⟩⟩
  · rw [perform_eq, if_pos (by simpa [MicroOp.inRange] using hrow)]
    cases d <;> rfl
  · rw [perform_eq, if_pos (by simpa [MicroOp.inRange] using he)]
    rfl
  · refine ⟨twstore d e s, ?_, State.T_setT_self s d e _, fun d' e' hne => State.T_setT_ne s hne _, ?_⟩
    · rw [perform_eq, if_pos (by simpa [MicroOp.inRange] using he)]
      rfl
    · cases d <;> rfl
  · rw [tset, State.setTag_tblSize, BitVec.toNat_ofNat, Nat.mod_eq_of_lt hsize]

/-- `t` is `s` but for the tables, the tag, the working registers and the draw counter. -/
def SameButTwiddles (s t : State) : Prop :=
  ∃ twtF twtI valid size wr wi ct st draw,
    t = { s with
          twtF := twtF, twtI := twtI, tblValid := valid, tblSize := size, wr := wr, wi := wi, ct := ct, st := st,
          draw := draw }

theorem SameButTwiddles.trans {s t u : State} (h : SameButTwiddles s t) (h' : SameButTwiddles t u) :
    SameButTwiddles s u := by
  obtain ⟨_, _, _, _, _, _, _, _, _, rfl⟩ := h
  obtain ⟨_, _, _, _, _, _, _, _, _, rfl⟩ := h'
  exact ⟨_, _, _, _, _, _, _, _, _, rfl⟩

/-- The micro-operations that name no word of DMEM are those of the twiddle generator and the tables (30_encoding.md
R68). -/
theorem sameButTwiddles_applyOp {c : Config} {op : MicroOp} (hwork : op.isWork c = true) (hwords : op.words = [])
    (s : State) : SameButTwiddles s (applyOp op s) := by
  cases op with
  | swapc _ _ | bfly _ _ | scale _ _ | rpair _ _ _ | rdc _ => simp [MicroOp.words] at hwords
  | finish code => simp [MicroOp.isWork] at hwork
  | twstore d e => cases d <;> exact ⟨_, _, _, _, _, _, _, _, _, rfl⟩
  | twseed _ _ | twstep | twload _ _ | tset _ => exact ⟨_, _, _, _, _, _, _, _, _, rfl⟩

theorem sameButTwiddles_effects {c : Config} {ops : List MicroOp}
    (h : ∀ op ∈ ops, op.isWork c = true ∧ op.words = []) (s : State) : SameButTwiddles s (effects ops s) := by
  induction ops generalizing s with
  | nil => exact ⟨_, _, _, _, _, _, _, _, _, rfl⟩
  | cons op ops ih =>
    obtain ⟨⟨hwork, hwords⟩, hops⟩ := List.forall_mem_cons.1 h
    exact (sameButTwiddles_applyOp hwork hwords s).trans (ih hops _)

/-! ### INIT -/

theorem rowsFilled_seqInit (n : Nat) (d : Dir) (s : State) : RowsFilled n d (effects (seqInit (2 ^ n)) s) := by
  intro row hrow mi hmi
  rw [seqInit, log2_two_pow, effects_append, effects_cons, effects_nil, applyOp, tset, State.T_setTag]
  exact rowsFilled_initRows n d s row hrow mi hmi

/-- The rows below `n` lie below entry `2^n - 1`: what is above stays (42_twiddle.md R117, R119). -/
theorem T_effects_initRows_of_le (n : Nat) (s : State) (d : Dir) {e : Nat} (he : 2 ^ n - 1 ≤ e) :
    (effects ((List.range n).flatMap fun row => initRow row .forward ++ initRow row .inverse) s).T d e = s.T d e := by
  induction n with
  | zero => rfl
  | succ n ih =>
    have hout : ∀ mi < 2 ^ n, e ≠ twIndex n mi := fun mi hmi => by
      have := (twIndex_bounds hmi).2
      omega
    have hbelow : 2 ^ n - 1 ≤ e := by
      rw [Nat.pow_succ] at he
      omega
    rw [List.range_succ, List.flatMap_append, effects_append, List.flatMap_singleton, effects_append,
      (rowBuilt_initRow n .inverse _).frame d e (.inr hout), (rowBuilt_initRow n .forward _).frame d e (.inr hout),
      ih hbelow]

theorem T_effects_seqInit_of_le {n : Nat} (s : State) (d : Dir) {e : Nat} (he : 2 ^ n - 1 ≤ e) :
    (effects (seqInit (2 ^ n)) s).T d e = s.T d e := by
  rw [seqInit, log2_two_pow, effects_append, effects_cons, effects_nil, applyOp, tset, State.T_setTag,
    T_effects_initRows_of_le n s d he]

/-- INIT ends in its TSET (42_twiddle.md R120). -/
theorem tag_effects_seqInit (size : Nat) (s : State) :
    (effects (seqInit size) s).tblValid = true ∧ (effects (seqInit size) s).tblSize = BitVec.ofNat 24 size := by
  rw [seqInit, effects_append]
  exact ⟨rfl, rfl⟩

theorem sameButTwiddles_seqInit {c : Config} {size : Nat} (hsize : sizeOk c size = true) (s : State) :
    SameButTwiddles s (effects (seqInit size) s) :=
  sameButTwiddles_effects (fun _ hop => ⟨isWork_of_mem_seqInit hsize hop, words_of_mem_seqInit hop⟩) s

/-- A completion without an error reads as STATUS = 2 (30_encoding.md R67). -/
theorem statusWord_complete_ok (s : State) : ((s.complete .ok).setPend []).statusWord = 0x00000002#32 := by
  rw [State.statusWord, State.setPend_err, State.setPend_done, State.setPend_busy, State.complete_err,
    State.complete_done, State.complete_busy]
  decide

/-- A command whose plan has no error performs its work on the accepted state and completes with ERR = 0
(45_command_control.md R176). -/
theorem exec_of_plan {s : State} {i : Instr} {ops : List MicroOp} (hb : s.busy = false)
    (hplan : planOf s.cfg s.tag i = ⟨ops, .ok⟩) :
    ∃ pend, exec i s = .next (((effects ops (s.accept (encode i) pend)).complete .ok).setPend []) := by
  have hisPlan : IsPlan s.cfg s.tag ⟨ops, .ok⟩ := .inr ⟨i, hplan.symm⟩
  refine ⟨ops ++ [.finish .ok], ?_⟩
  rw [exec_eq, hplan]
  exact command_idle hb fun op hop => MicroOp.inRange_of_isWork (hisPlan.isWork hop)

theorem planOf_init {c : Config} {tag : TableTag} {size : Nat} (hsize : sizeOk c size = true) :
    planOf c tag (.init size) = ⟨seqInit size, .ok⟩ := by rw [planOf, planInit, if_pos hsize]

/-- Settles O22: row by row the tables hold the recurrence's values, nothing above the last row is touched, and the
sequence writes nothing but tables, tag, working registers and draw counter. -/
theorem initBuildsBothTables : Obligations.InitBuildsBothTables := by
  intro s n hb hn
  have hsize : sizeOk s.cfg (2 ^ n) = true := sizeOk_iff.2 ⟨n, hn, rfl⟩
  obtain ⟨pend, hnext⟩ := exec_of_plan hb (planOf_init hsize)
  obtain ⟨hvalid, htblSize⟩ := tag_effects_seqInit (2 ^ n) (s.accept (encode (.init (2 ^ n))) pend)
  refine ⟨_, hnext, fun row hrow d mi hmi => rowsFilled_seqInit n d _ row hrow mi hmi,
    fun d e he => T_effects_seqInit_of_le _ d he, hvalid, ?_, statusWord_complete_ok _, ?_⟩
  · rw [State.setPend_tblSize, State.complete_tblSize, htblSize, toNat_tblSize_of_sizeOk hsize]
  · obtain ⟨_, _, _, _, _, _, _, _, _, heq⟩ := sameButTwiddles_seqInit hsize (s.accept (encode (.init (2 ^ n))) pend)
    rw [heq] at hvalid ⊢
    obtain rfl := hvalid
    rfl

end Sys2Proof.Machine
end

section
/-! PROOFS. Who writes the tables and their tag (42_twiddle.md R125, 10_state.md R22): TWSTORE, TSET and reset alone, and
of the commands only INIT has the first two. -/

namespace Sys2Proof.Machine

/-- A called word that gives a command is the word at the head of the inbox. -/
theorem fetch_command {s u : State} {i : Instr} (h : fetch s = (.command i, u)) :
    ∃ w, s.inbox.head? = some (.call w) ∧ decode w = .ok i := by
  cases hin : s.inbox with
  | nil =>
    rw [fetch_nil hin, Prod.mk.injEq] at h
    obtain ⟨hturn, -⟩ := h
    split at hturn <;> cases hturn
  | cons e rest =>
    rw [fetch_cons hin, Prod.mk.injEq] at h
    obtain ⟨hturn, -⟩ := h
    cases e with
    | host x | seq | reset => cases hturn
    | call w =>
      rw [Event.turn, callTurn] at hturn
      split at hturn
      · next j hdecode =>
        obtain rfl := Turn.command.inj hturn
        exact ⟨w, rfl, hdecode⟩
      · cases hturn

/-- Only TWSTORE and TSET write the tables or the tag (42_twiddle.md R116, R120). -/
theorem tables_applyOp {op : MicroOp} (hstore : ∀ d e, op ≠ .twstore d e) (htset : ∀ size, op ≠ .tset size)
    (s : State) :
    (applyOp op s).twtF = s.twtF ∧ (applyOp op s).twtI = s.twtI ∧ (applyOp op s).tblValid = s.tblValid ∧
      (applyOp op s).tblSize = s.tblSize := by
  cases op with
  | twstore d e => exact absurd rfl (hstore d e)
  | tset size => exact absurd rfl (htset size)
  | rdc d => cases d <;> exact ⟨rfl, rfl, rfl, rfl⟩
  | _ => exact ⟨rfl, rfl, rfl, rfl⟩

theorem tables_seqStep {s t : State} (h : seqStep s = .ok t) (hstore : ∀ d e, s.pend.head? ≠ some (.twstore d e))
    (htset : ∀ size, s.pend.head? ≠ some (.tset size)) :
    t.twtF = s.twtF ∧ t.twtI = s.twtI ∧ t.tblValid = s.tblValid ∧ t.tblSize = s.tblSize := by
  obtain ⟨-, rfl⟩ | ⟨op, rest, -, hpend, -, rfl⟩ := seqStep_cases h
  · exact ⟨rfl, rfl, rfl, rfl⟩
  · rw [hpend, List.head?_cons] at hstore htset
    exact tables_applyOp (fun d e heq => hstore d e (by rw [heq])) (fun size heq => htset size (by rw [heq])) _

/-- No transaction writes the tables: TWT space is read-only, and a CMD write is acceptance alone (20_memory.md R43). -/
theorem tables_hostTurn (x : Txn) (s : State) :
    (hostTurn x s).twtF = s.twtF ∧ (hostTurn x s).twtI = s.twtI ∧ (hostTurn x s).tblValid = s.tblValid ∧
      (hostTurn x s).tblSize = s.tblSize := by
  obtain ht | ⟨sp, i, -, ht⟩ | ⟨w, -, -, ht⟩ | ⟨i, v, -, -, -, ht⟩ := hostTurn_cases x s <;> rw [ht] <;>
    exact ⟨rfl, rfl, rfl, rfl⟩

theorem tables_command {c : Config} {w : Reg32} {p : Plan} {s t : State} (hp : ∀ op ∈ p.ops, op.isSignalWork c = true)
    (h : command w p s = .next t) :
    t.twtF = s.twtF ∧ t.twtI = s.twtI ∧ t.tblValid = s.tblValid ∧ t.tblSize = s.tblSize := by
  obtain ⟨-, rfl⟩ | ⟨-, -, rfl⟩ := command_cases h
  · exact ⟨rfl, rfl, rfl, rfl⟩
  · exact effects_tables hp (s.accept w p.expand)

/-- A word that is no INIT has work on the signal alone (42_twiddle.md R125). -/
theorem isSignalWork_of_mem_planWord {c : Config} {tag : TableTag} {w : Reg32} {op : MicroOp}
    (hw : ∀ size, decode w ≠ .ok (.init size)) (hop : op ∈ (planWord c tag w).ops) : op.isSignalWork c = true := by
  rw [planWord] at hop
  split at hop
  · next i hdecode =>
    exact isSignalWork_of_mem_planOf (fun size hi => hw size (hi ▸ hdecode)) hop
  · simp [planIllegal, Plan.fail] at hop

/-- Settles O52: the step by its turns, the expansions by what their plans are made of. -/
theorem onlyInitWritesTheTables : Obligations.OnlyInitWritesTheTables := by
  constructor
  · intro s t h hreset hinit hstore htset
    obtain ⟨i, u, hf, h⟩ | ⟨w, u, hf, h⟩ | ⟨x, u, hf, rfl⟩ | ⟨u, hf, h⟩ | ⟨u, hf, -⟩ | ⟨u, hf, rfl⟩ := step_cases h <;>
      obtain ⟨⟨es, rfl⟩, hhead⟩ := fetch_cases hf
    · obtain ⟨w, hcall, hdecode⟩ := fetch_command hf
      rw [exec_eq] at h
      have hi : ∀ size, i ≠ .init size := fun size hi => hinit w size hcall (hi ▸ hdecode)
      exact tables_command (s := s.setInbox es) (fun op => isSignalWork_of_mem_planOf hi) h
    · exact tables_command (c := s.cfg) (p := planIllegal) (s := s.setInbox es) (by simp [planIllegal, Plan.fail]) h
    · exact tables_hostTurn x (s.setInbox es)
    · exact tables_seqStep (s := s.setInbox es) h hstore htset
    · exact absurd (hhead rfl) hreset
    · exact ⟨rfl, rfl, rfl, rfl⟩
  · intro c tag w hw
    have hwork : ∀ op ∈ expand c tag w, op.isSignalWork c = true ∨ op = .finish (planWord c tag w).code := by
      intro op hop
      rw [expand, Plan.expand, List.mem_append, List.mem_singleton] at hop
      exact hop.imp_left (isSignalWork_of_mem_planWord hw)
    exact ⟨fun d e hmem => by simpa [MicroOp.isSignalWork] using hwork _ hmem,
      fun size hmem => by simpa [MicroOp.isSignalWork] using hwork _ hmem⟩

end Sys2Proof.Machine
end

section
/-! PROOFS. Table mode and recurrence mode side by side (42_twiddle.md R121): after every offset of every row the two
runs hold the same values in DMEM, since the entry that the one loads is the value that the other has computed. -/

namespace Sys2Proof.Machine

variable {c : Config} {s t : State} {op : MicroOp} {ops : List MicroOp} {d : Dir} {m row mi : Nat}

/-! ### Micro-operations on DMEM -/

/-- The micro-operation multiplies by WR and WI (43_butterfly.md R130, 44_realfft.md R150). -/
def MicroOp.rotates : MicroOp → Bool
  | .bfly _ _ => true
  | .rpair _ _ _ => true
  | _ => false

/-- A micro-operation that names words of DMEM writes DMEM and the draw counter alone (30_encoding.md R68). -/
theorem applyOp_frame_of_words (h : op.words ≠ []) (s : State) :
    applyOp op s = { s with dmem := (applyOp op s).dmem, draw := (applyOp op s).draw } := by
  cases op with
  | swapc _ _ | bfly _ _ | scale _ _ | rpair _ _ _ => rfl
  | rdc d => cases d <;> rfl
  | _ => exact absurd rfl h

theorem signal_setD (s : State) (i : Nat) (v : Word) : (s.setD i v).signal = Function.update s.signal i (fpVal v) := by
  funext j
  simp only [State.signal, State.D_setD, Function.update_apply, apply_ite fpVal]

theorem signal_useDraws (s : State) (k : Nat) : (s.useDraws k).signal = s.signal := rfl

/-- What a micro-operation on DMEM does to the values depends on the values alone: no draw enters (40_numerics.md
R85). -/
theorem signal_applyOp_congr (hop : op.words ≠ []) (hx : t.signal = s.signal)
    (hw : op.rotates = true → fpPair (t.wr, t.wi) = fpPair (s.wr, s.wi)) :
    (applyOp op t).signal = (applyOp op s).signal := by
  have hD : ∀ i, fpVal (t.D i) = fpVal (s.D i) := congrFun hx
  cases op with
  | swapc _ _ => simp only [applyOp, swapc, signal_setD, hD, hx]
  | bfly _ _ | rpair _ _ _ =>
    obtain ⟨hwr, hwi⟩ := Prod.mk.inj (hw rfl)
    simp only at hwr hwi
    simp only [applyOp, bfly, rpair, signal_setD, signal_useDraws, fpVal_fadd, fpVal_fsub, fpVal_fmul, hD, hx, hwr, hwi]
  | scale _ _ => simp only [applyOp, scale, signal_setD, signal_useDraws, fpVal_fmul, hD, hx]
  | rdc d =>
    cases d <;>
      simp only [applyOp, rdc, signal_setD, signal_useDraws, fpVal_fadd, fpVal_fsub, fpVal_fmul, hD, hx]
  | _ => exact absurd rfl hop

theorem signal_effects_of_words_nil (h : ∀ op ∈ ops, op.words = []) (s : State) :
    (effects ops s).signal = s.signal := by
  have hnone : WordsBelow 0 ops := fun op hop a ha => by simp [h op hop] at ha
  exact funext fun a => congrArg fpVal (D_effects_of_wordsBelow hnone (Nat.zero_le a) s)

/-- Work on DMEM leaves the twiddle generator where it is. -/
theorem AtOffset.onWords (h : AtOffset row d mi s) (hops : ∀ op ∈ ops, op.words ≠ []) :
    AtOffset row d mi (effects ops s) := by
  induction ops generalizing s with
  | nil => exact h
  | cons op ops ih =>
    obtain ⟨hop, hops⟩ := List.forall_mem_cons.1 hops
    rw [effects_cons, applyOp_frame_of_words hop]
    exact ih ⟨h.w, h.ct, h.st⟩ hops

theorem words_of_mem_seqOffset {n : Nat} (h : op ∈ seqOffset n row mi) : op.words ≠ [] := by
  obtain ⟨g, -, rfl⟩ := List.mem_map.1 h
  exact List.cons_ne_nil _ _

/-! ### The two runs -/

/-- The run in table mode (`s`) and the run in recurrence mode (`t`) hold the same values, and the rows below `m` of the
table of direction `d` hold their twiddle values. -/
structure InStep (m : Nat) (d : Dir) (s t : State) : Prop where
  signal : t.signal = s.signal
  filled : RowsFilled m d s

/-- Work on DMEM keeps the runs in step where it multiplies by the same factor, if it multiplies by one. -/
theorem InStep.onWords (h : InStep m d s t)
    (hops : ∀ op ∈ ops, op.words ≠ [] ∧ (op.rotates = true → fpPair (t.wr, t.wi) = fpPair (s.wr, s.wi))) :
    InStep m d (effects ops s) (effects ops t) := by
  induction ops generalizing s t with
  | nil => exact h
  | cons op ops ih =>
    obtain ⟨⟨hop, hw⟩, hops⟩ := List.forall_mem_cons.1 hops
    have hsignal := signal_applyOp_congr hop h.signal hw
    have hs := applyOp_frame_of_words hop s
    rw [effects_cons, effects_cons]
    refine ih ⟨hsignal, fun row hrow mi hmi => ?_⟩ ?_
    · rw [State.T_congr (s := s) (by rw [hs]) (by rw [hs]) (by rw [hs])]
      exact h.filled row hrow mi hmi
    · rw [hs, applyOp_frame_of_words hop t]
      exact hops

/-- The runs are in step after the first `k` offsets of row `row`: the recurrence stands at the last of them. -/
structure RowInStep (m row : Nat) (d : Dir) (k : Nat) (s t : State) : Prop extends InStep m d s t where
  generator : ∀ mi, k = mi + 1 → AtOffset row d mi t

theorem InStep.rowStart (h : InStep m d s t) (row : Nat) : RowInStep m row d 0 s t := ⟨h, nofun⟩

/-- One offset: the one run loads the entry `W(row, d, k)`, the other computes it, and both do the same work with it. -/
theorem RowInStep.offset {k : Nat} (h : RowInStep m row d k s t) (hrow : row < m) (hk : k < 2 ^ row)
    (hops : ∀ op ∈ ops, op.words ≠ []) :
    RowInStep m row d (k + 1) (effects (.twload d (twIndex row k) :: ops) s)
      (effects (seqTwiddle row k d .recurrence ++ ops) t) := by
  have hat := (effects_seqTwiddle_recurrence h.generator).1
  have hsignal :=
    signal_effects_of_words_nil (ops := seqTwiddle row k d .recurrence) (fun _ => words_of_mem_seqTwiddle) t
  rw [effects_append, effects_cons]
  constructor
  · have hload : InStep m d (twload d (twIndex row k) s) (effects (seqTwiddle row k d .recurrence) t) :=
      ⟨hsignal.trans h.signal, h.filled⟩
    exact hload.onWords fun op hop => ⟨hops op hop, fun _ => hat.w.trans (h.filled row hrow k hk).symm⟩
  · rintro mi hmi
    obtain rfl : k = mi := by omega
    exact hat.onWords hops

/-- Offset after offset of a row, each with its own work. -/
theorem RowInStep.offsets {k count : Nat} (h : RowInStep m row d k s t) (hrow : row < m) (hcount : count + k ≤ 2 ^ row)
    {work : Nat → List MicroOp} (hwork : ∀ g, ∀ op ∈ work g, op.words ≠ []) :
    RowInStep m row d (count + k)
      (effects ((List.range count).flatMap fun g => .twload d (twIndex row (g + k)) :: work g) s)
      (effects ((List.range count).flatMap fun g => seqTwiddle row (g + k) d .recurrence ++ work g) t) := by
  induction count with
  | zero => rwa [Nat.zero_add]
  | succ count ih =>
    rw [List.range_succ, List.flatMap_append, List.flatMap_append, effects_append, effects_append,
      List.flatMap_singleton, List.flatMap_singleton, Nat.add_right_comm]
    exact (ih (by omega)).offset hrow (by omega) (hwork count)

theorem inStep_seqStage (h : InStep m d s t) (n : Nat) (hrow : row < m) :
    InStep m d (effects (seqStage n row d .table) s) (effects (seqStage n row d .recurrence) t) :=
  ((h.rowStart row).offsets hrow (Nat.le_refl _) fun _ _ => words_of_mem_seqOffset).toInStep

theorem inStep_seqStages (h : InStep m d s t) {n : Nat} (hn : n ≤ m) :
    InStep m d (effects (seqStages (2 ^ n) d .table) s) (effects (seqStages (2 ^ n) d .recurrence) t) := by
  have hrows : ∀ k ≤ n, InStep m d (effects ((List.range k).flatMap fun row => seqStage (2 ^ n) row d .table) s)
      (effects ((List.range k).flatMap fun row => seqStage (2 ^ n) row d .recurrence) t) := by
    intro k hk
    induction k with
    | zero => exact h
    | succ k ih =>
      rw [List.range_succ, List.flatMap_append, List.flatMap_append, effects_append, effects_append,
        List.flatMap_singleton, List.flatMap_singleton]
      exact inStep_seqStage (ih (by omega)) _ (by omega)
  rw [seqStages, seqStages, log2_two_pow]
  exact hrows n (Nat.le_refl n)

theorem inStep_seqCore (h : InStep m d s t) {n : Nat} (hn : n ≤ m) :
    InStep m d (effects (seqCore (2 ^ n) d .table) s) (effects (seqCore (2 ^ n) d .recurrence) t) := by
  have hpermute := h.onWords (ops := seqPermute (2 ^ n)) fun op hop => by
    obtain ⟨a, b, rfl, -⟩ := eq_swapc_of_mem_seqPermute hop
    exact ⟨List.cons_ne_nil _ _, nofun⟩
  rw [seqCore, seqCore, effects_append, effects_append, effects_append, effects_append]
  refine (inStep_seqStages hpermute hn).onWords fun op hop => ?_
  cases d with
  | forward => simp [seqScale] at hop
  | inverse =>
    obtain ⟨i, -, rfl⟩ := List.mem_map.1 hop
    exact ⟨List.cons_ne_nil _ _, nofun⟩

/-- The post/pre-processor uses row `log2(N/2)` from offset 1 on; its seed is offset 0, with no work (44_realfft.md
R154). -/
theorem inStep_seqRpost (h : InStep (m + 1) d s t) :
    InStep (m + 1) d (effects (seqRpost (2 * 2 ^ m) d .table) s) (effects (seqRpost (2 * 2 ^ m) d .recurrence) t) := by
  have hhalf : 2 * 2 ^ m / 2 = 2 ^ m := by omega
  have hseed : RowInStep (m + 1) m d 1 s (twseed m d t) := by
    refine ⟨⟨h.signal, h.filled⟩, fun mi hmi => ?_⟩
    obtain rfl : 0 = mi := by omega
    exact atOffset_twseed m d t
  have hpairs := hseed.offsets (count := 2 * 2 ^ m / 4 - 1) (work := fun g => [.rpair (g + 1) d (2 * 2 ^ m)])
    (Nat.lt_succ_self m) (by have := Nat.two_pow_pos m; omega) (by simp [MicroOp.words])
  rw [seqRpost, seqRpost, effects_append, effects_append, effects_append, effects_append]
  simp only [seqRpostSeed, seqPairTwiddle, hhalf, log2_two_pow]
  exact hpairs.toInStep.onWords fun op hop => by
    obtain rfl := List.mem_singleton.1 hop
    exact ⟨List.cons_ne_nil _ _, nofun⟩

theorem inStep_seqReal (h : InStep (m + 1) d s t) :
    InStep (m + 1) d (effects (seqReal (2 * 2 ^ m) d .table) s) (effects (seqReal (2 * 2 ^ m) d .recurrence) t) := by
  have hhalf : 2 * 2 ^ m / 2 = 2 ^ m := by omega
  cases d <;> rw [seqReal, seqReal, effects_append, effects_append, hhalf]
  · exact inStep_seqRpost (inStep_seqCore h (Nat.le_succ m))
  · exact inStep_seqCore (inStep_seqRpost h) (Nat.le_succ m)

/-! ### The commands -/

theorem planOf_xformInstr {twm : TwMode} {tag : TableTag} (hm : m ≤ c.logn) (htag : tableOk tag twm (2 ^ m) = true) :
    planOf c tag (xformInstr d twm (2 * 2 ^ m)) = ⟨seqCore (2 ^ m) d twm, .ok⟩ := by
  have hplan : planOf c tag (xformInstr d twm (2 * 2 ^ m)) = planXform c tag (2 * 2 ^ m) d twm := by
    cases d <;> cases twm <;> rfl
  rw [hplan, planXform, if_pos (lenOk_iff.2 ⟨m, hm, rfl⟩), Nat.mul_div_cancel_left _ Nat.two_pos, if_pos htag]

theorem planOf_rxformInstr {twm : TwMode} {tag : TableTag} (hm : m ≤ c.logn)
    (htag : tableOk tag twm (2 * 2 ^ m) = true) :
    planOf c tag (rxformInstr d twm (2 * 2 ^ m)) = ⟨seqReal (2 * 2 ^ m) d twm, .ok⟩ := by
  have hplan : planOf c tag (rxformInstr d twm (2 * 2 ^ m)) = planRxform c tag (2 * 2 ^ m) d twm := by
    cases d <;> cases twm <;> rfl
  rw [hplan, planRxform, if_pos (lenOk_iff.2 ⟨m, hm, rfl⟩), if_pos htag]

theorem tableOk_table {n : Nat} (hvalid : s.tblValid = true) (hsize : s.tblSize.toNat = n) :
    tableOk s.tag .table n = true := by simp [tableOk, State.tag, hvalid, hsize]

/-- Two commands whose work keeps two runs in step leave the same values. -/
theorem exists_same_values {i j : Instr} {ops ops' : List MicroOp} (hb : s.busy = false)
    (hi : planOf s.cfg s.tag i = ⟨ops, .ok⟩) (hj : planOf s.cfg s.tag j = ⟨ops', .ok⟩) (hfilled : RowsFilled m d s)
    (hstep : ∀ {u v : State}, InStep m d u v → InStep m d (effects ops u) (effects ops' v)) :
    ∃ t u, exec i s = .next t ∧ exec j s = .next u ∧ ∀ a, fpVal (t.D a) = fpVal (u.D a) := by
  obtain ⟨pend, ht⟩ := exec_of_plan hb hi
  obtain ⟨pend', hu⟩ := exec_of_plan hb hj
  have hstart : InStep m d (s.accept (encode i) pend) (s.accept (encode j) pend') := ⟨rfl, hfilled⟩
  exact ⟨_, _, ht, hu, fun a => (congrFun (hstep hstart).signal a).symm⟩

theorem TablesMatchTag.rowsFilled (h : TablesMatchTag s) (hvalid : s.tblValid = true) {n : Nat}
    (hsize : s.tblSize.toNat = 2 ^ n) (d : Dir) : RowsFilled n d s := fun row hrow =>
  h hvalid row (by rwa [hsize, log2_two_pow]) d

/-- Settles O28: the two modes' sequences stay in step, offset by offset. -/
theorem tableModeEqualsRecurrenceMode : Obligations.TableModeEqualsRecurrenceMode := by
  constructor
  · intro s n d hb hn hvalid hsize hmatch
    exact exists_same_values hb (planOf_xformInstr hn (tableOk_table hvalid hsize)) (planOf_xformInstr hn rfl)
      (hmatch.rowsFilled hvalid hsize d) fun h => inStep_seqCore h (Nat.le_refl n)
  · intro s m d hb hm hvalid hsize hmatch
    have hrows := hmatch.rowsFilled hvalid hsize d
    rw [Nat.pow_succ'] at hsize ⊢
    exact exists_same_values hb (planOf_rxformInstr hm (tableOk_table hvalid hsize)) (planOf_rxformInstr hm rfl) hrows
      inStep_seqReal

end Sys2Proof.Machine
end

section
/-! PROOFS. Negation in sums and products, and values up to the sign of a zero (40_numerics.md R81 to R83, R92). -/

namespace Sys2Proof.Machine

/-! ### Negation of words -/

theorem fneg_fneg (a : Word) : fneg (fneg a) = a := by simp [fneg]

@[simp] theorem isZero_fneg (a : Word) : isZero (fneg a) = isZero a := by simp [isZero]

@[simp] theorem magOf_fneg (a : Word) : magOf (fneg a) = magOf a := by simp [magOf]

theorem fneg_packWord (neg : Bool) {b : Nat} (h : b < 2 ^ 63) : fneg (packWord neg b) = packWord (!neg) b := by
  rw [← packWord_fields (fneg (packWord neg b)), signOf_fneg, expOf_fneg, fracOf_fneg, signOf_packWord h,
    expOf_packWord h, fracOf_packWord h, Nat.div_add_mod']

/-- A zero that is not `-0` is `+0`. -/
theorem signOf_of_zero_of_ne {z : Word} (h : isZero z = true) (hne : z ≠ 0x8000000000000000#64) : signOf z = false := by
  obtain ⟨hexp, hfrac⟩ := isZero_iff.1 h
  refine Bool.eq_false_iff.2 fun hs => hne ?_
  rw [← packWord_fields z, hexp, hfrac, hs]
  decide

/-- The sign of a product turns with an operand's, whatever the magnitudes (40_numerics.md R83). -/
theorem mulNum_fneg_left (a b : Word) : mulNum (fneg a) b = (mulNum a b).map fneg := by
  have hsign : ((!signOf a) != signOf b) = !(signOf a != signOf b) := by
    cases signOf a <;> cases signOf b <;> rfl
  unfold mulNum
  simp only [isNaN_fneg, isInf_fneg, isZero_fneg, magOf_fneg, signOf_fneg, hsign]
  split_ifs
  · rfl
  · rfl
  · rw [Option.map_some, fneg_packWord _ infBits_lt]
  · rw [Option.map_some, fneg_packWord _ (roundBits_lt_two_pow _ _)]

/-- The sum of an infinity and anything turns its sign with both operands. -/
theorem addNum_fneg_fneg_of_isInf {a : Word} (ha : isInf a = true) (b : Word) :
    addNum (fneg a) (fneg b) = (addNum a b).map fneg := by
  have ha' : isInf (fneg a) = true := (isInf_fneg a).trans ha
  cases hb : isNaN b with
  | true => rw [addNum_of_nan (.inr ((isNaN_fneg b).trans hb)), addNum_of_nan (.inr hb), Option.map_none]
  | false =>
    by_cases hcancel : isInf b = true ∧ signOf a ≠ signOf b
    · obtain ⟨hinf, hs⟩ := hcancel
      rw [addNum_of_cancel ha hinf hs, addNum_of_cancel ha' ((isInf_fneg b).trans hinf) (by simpa using hs),
        Option.map_none]
    · have hs : isInf b = true → signOf a = signOf b := fun hinf => by_contra fun hne => hcancel ⟨hinf, hne⟩
      rw [addNum_of_inf_left ha hb hs, addNum_of_inf_left ha' ((isNaN_fneg b).trans hb) (by simpa using hs),
        Option.map_some]

/-- A sum of finite words that is not an exact zero turns its sign with both operands (40_numerics.md R92). -/
theorem addNum_fneg_fneg_of_ne_zero {a b : Word} (ha : isFinite a = true) (hb : isFinite b = true)
    (hsum : valueOf a + valueOf b ≠ 0) : addNum (fneg a) (fneg b) = (addNum a b).map fneg := by
  have hneg : valueOf (fneg a) + valueOf (fneg b) = -(valueOf a + valueOf b) := by
    rw [valueOf_fneg, valueOf_fneg, neg_add]
  have hsign : sumSign (fneg a) (fneg b) = !sumSign a b := by
    rw [sumSign, sumSign, hneg, if_neg (neg_ne_zero.2 hsum), if_neg hsum, ← decide_not, decide_eq_decide]
    omega
  rw [addNum_of_finite ((isFinite_fneg a).trans ha) ((isFinite_fneg b).trans hb), addNum_of_finite ha hb, hsign, hneg,
    Int.natAbs_neg, Option.map_some, fneg_packWord _ (roundBits_lt_two_pow _ _)]

/-! ### An operand that is a zero -/

/-- The product with a zero: a zero where the other factor is finite, else a NaN (40_numerics.md R83). -/
theorem mulNum_of_isZero_left {a : Word} (ha : isZero a = true) (b : Word) :
    mulNum a b = if isFinite b = true then some (packWord (signOf a != signOf b) 0) else none := by
  split
  · next hb => exact mulNum_of_zero_left ha hb
  · next hb =>
    rw [mulNum_eq_none_iff]
    obtain hnan | hinf | hfin := word_cases b
    · exact .inr (.inl hnan)
    · exact .inr (.inr (.inr ⟨ha, hinf⟩))
    · exact absurd hfin hb

/-- The sum with a zero: the other summand, but of two zeros the one whose sign both have, else `+0` (40_numerics.md
R81). -/
theorem addNum_of_isZero_right {b : Word} (hb : isZero b = true) (a : Word) :
    addNum a b =
      if isNaN a = true then none
      else if isZero a = true then some (packWord (signOf a && signOf b) 0) else some a := by
  split
  · next ha => exact addNum_of_nan (.inl ha)
  · next ha =>
    split
    · next hz =>
      have hsum : valueOf a + valueOf b = 0 := by rw [valueOf_eq_zero_iff.2 hz, valueOf_eq_zero_iff.2 hb, add_zero]
      exact addNum_of_sum_zero (isFinite_of_isZero hz) (isFinite_of_isZero hb) hsum
    · next hz => exact addNum_of_zero_right (Bool.eq_false_iff.2 ha) (Bool.eq_false_iff.2 hz) hb

/-- Only `-0` tells the sign of a zero that is added to it: `+0` and either zero is `+0` (40_numerics.md R81). -/
theorem addNum_eq_of_zeros {a b b' : Word} (hb : isZero b = true) (hb' : isZero b' = true)
    (ha : a ≠ 0x8000000000000000#64) : addNum a b = addNum a b' := by
  rw [addNum_of_isZero_right hb, addNum_of_isZero_right hb']
  by_cases hz : isZero a = true
  · rw [signOf_of_zero_of_ne hz ha, Bool.false_and, Bool.false_and]
  · rw [if_neg hz, if_neg hz]

/-! ### Operations on values -/

theorem FpVal.mul_fpVal (a b : Word) : FpVal.mul (fpVal a) (fpVal b) = mulNum a b := by
  cases ha : isNaN a with
  | true => rw [fpVal_of_nan ha, mulNum_of_nan (.inl ha)]; rfl
  | false =>
    cases hb : isNaN b with
    | true => rw [fpVal_of_num ha, fpVal_of_nan hb, mulNum_of_nan (.inr hb)]; rfl
    | false => rw [fpVal_of_num ha, fpVal_of_num hb]; rfl

theorem FpVal.isZero_fpVal (a : Word) : (fpVal a).isZero = Machine.isZero a := by
  cases ha : isNaN a with
  | true =>
    have hz : Machine.isZero a = false := Bool.eq_false_iff.2 fun hz => by
      simp [isNaN_of_isFinite (isFinite_of_isZero hz)] at ha
    rw [fpVal_of_nan ha, hz]
    rfl
  | false => rw [fpVal_of_num ha]; rfl

theorem FpVal.exists_of_isZero {x : FpVal} (h : x.isZero = true) : ∃ a, x = some a ∧ Machine.isZero a = true := by
  cases x with
  | none => cases h
  | some a => exact ⟨a, rfl, h⟩

@[simp] theorem FpVal.isZero_neg (x : FpVal) : (FpVal.neg x).isZero = x.isZero := by
  cases x with
  | none => rfl
  | some a => exact isZero_fneg a

@[simp] theorem FpVal.neg_neg (x : FpVal) : FpVal.neg (FpVal.neg x) = x := by
  cases x with
  | none => rfl
  | some a => exact congrArg some (fneg_fneg a)

theorem FpVal.none_add (y : FpVal) : FpVal.add none y = none := rfl

theorem FpVal.add_comm (x y : FpVal) : FpVal.add x y = FpVal.add y x := by
  cases x with
  | none => cases y <;> rfl
  | some a =>
    cases y with
    | none => rfl
    | some b => exact addNum_comm a b

theorem FpVal.mul_comm (x y : FpVal) : FpVal.mul x y = FpVal.mul y x := by
  cases x with
  | none => cases y <;> rfl
  | some a =>
    cases y with
    | none => rfl
    | some b => exact mulNum_comm a b

theorem FpVal.neg_mul (x y : FpVal) : FpVal.mul (FpVal.neg x) y = FpVal.neg (FpVal.mul x y) := by
  cases x with
  | none => rfl
  | some a =>
    cases y with
    | none => rfl
    | some b => exact mulNum_fneg_left a b

theorem FpVal.mul_neg (x y : FpVal) : FpVal.mul x (FpVal.neg y) = FpVal.neg (FpVal.mul x y) := by
  rw [mul_comm, neg_mul, mul_comm]

/-! ### Values up to the sign of a zero -/

/-- The same value, where the two zeros are not told apart. -/
def FpVal.SameButZeroSign (x y : FpVal) : Prop := x = y ∨ (x.isZero = true ∧ y.isZero = true)

namespace FpVal.SameButZeroSign

variable {x x' y y' z : FpVal}

theorem refl (x : FpVal) : SameButZeroSign x x := .inl rfl

theorem trans (h : SameButZeroSign x y) (h' : SameButZeroSign y z) : SameButZeroSign x z := by
  obtain rfl | ⟨hx, hy⟩ := h
  · exact h'
  · obtain rfl | ⟨-, hz⟩ := h'
    · exact .inr ⟨hx, hy⟩
    · exact .inr ⟨hx, hz⟩

theorem neg (h : SameButZeroSign x y) : SameButZeroSign (FpVal.neg x) (FpVal.neg y) := by
  obtain rfl | ⟨hx, hy⟩ := h
  · exact refl _
  · exact .inr ⟨by simpa using hx, by simpa using hy⟩

/-- The sign of a zero factor shows in a zero alone: a zero by a finite number is a zero, by anything else a NaN
(40_numerics.md R83). -/
theorem mul_right (h : SameButZeroSign x x') (y : FpVal) : SameButZeroSign (FpVal.mul x y) (FpVal.mul x' y) := by
  obtain rfl | ⟨hx, hx'⟩ := h
  · exact refl _
  · obtain ⟨a, rfl, ha⟩ := exists_of_isZero hx
    obtain ⟨a', rfl, ha'⟩ := exists_of_isZero hx'
    cases y with
    | none => exact refl none
    | some b =>
      show SameButZeroSign (mulNum a b) (mulNum a' b)
      rw [mulNum_of_isZero_left ha, mulNum_of_isZero_left ha']
      split
      · exact .inr ⟨isZero_packWord_zero _, isZero_packWord_zero _⟩
      · exact refl none

/-- The sign of a zero summand shows in a zero alone: `x + (+-0) = x` for every other number (40_numerics.md R81). -/
theorem add_left (h : SameButZeroSign y y') (x : FpVal) : SameButZeroSign (FpVal.add x y) (FpVal.add x y') := by
  obtain rfl | ⟨hy, hy'⟩ := h
  · exact refl _
  · obtain ⟨b, rfl, hb⟩ := exists_of_isZero hy
    obtain ⟨b', rfl, hb'⟩ := exists_of_isZero hy'
    cases x with
    | none => exact refl none
    | some a =>
      show SameButZeroSign (addNum a b) (addNum a b')
      rw [addNum_of_isZero_right hb, addNum_of_isZero_right hb']
      split
      · exact refl none
      · split
        · exact .inr ⟨isZero_packWord_zero _, isZero_packWord_zero _⟩
        · exact refl (some a)

theorem add (h : SameButZeroSign x x') (h' : SameButZeroSign y y') :
    SameButZeroSign (FpVal.add x y) (FpVal.add x' y') := by
  refine SameButZeroSign.trans ?_ (h'.add_left x')
  rw [add_comm x y, add_comm x' y]
  exact h.add_left y

theorem sub (h : SameButZeroSign x x') (h' : SameButZeroSign y y') :
    SameButZeroSign (FpVal.sub x y) (FpVal.sub x' y') := h.add h'.neg

/-- Negating both summands negates the sum, but for an exact zero, which is `+0` both times (40_numerics.md R81,
R92). -/
theorem neg_add_neg (x y : FpVal) :
    SameButZeroSign (FpVal.add (FpVal.neg x) (FpVal.neg y)) (FpVal.neg (FpVal.add x y)) := by
  cases x with
  | none => exact refl none
  | some a =>
    cases y with
    | none => exact refl none
    | some b =>
      show SameButZeroSign (addNum (fneg a) (fneg b)) ((addNum a b).map fneg)
      obtain ha | ha | ha := word_cases a
      · rw [addNum_of_nan (.inl ((isNaN_fneg a).trans ha)), addNum_of_nan (.inl ha)]
        exact refl none
      · exact .inl (addNum_fneg_fneg_of_isInf ha b)
      · obtain hb | hb | hb := word_cases b
        · rw [addNum_of_nan (.inr ((isNaN_fneg b).trans hb)), addNum_of_nan (.inr hb)]
          exact refl none
        · rw [addNum_comm, addNum_comm a]
          exact .inl (addNum_fneg_fneg_of_isInf hb a)
        · by_cases hsum : valueOf a + valueOf b = 0
          · have hsum' : valueOf (fneg a) + valueOf (fneg b) = 0 := by
              rw [valueOf_fneg, valueOf_fneg, ← neg_add, hsum, neg_zero]
            rw [addNum_of_sum_zero ha hb hsum,
              addNum_of_sum_zero ((isFinite_fneg a).trans ha) ((isFinite_fneg b).trans hb) hsum']
            exact .inr ⟨isZero_packWord_zero _, (isZero_fneg _).trans (isZero_packWord_zero _)⟩
          · exact .inl (addNum_fneg_fneg_of_ne_zero ha hb hsum)

theorem add_left_eq (h : SameButZeroSign y y') (hx : x ≠ some 0x8000000000000000#64) :
    FpVal.add x y = FpVal.add x y' := by
  obtain rfl | ⟨hy, hy'⟩ := h
  · rfl
  · obtain ⟨b, rfl, hb⟩ := exists_of_isZero hy
    obtain ⟨b', rfl, hb'⟩ := exists_of_isZero hy'
    cases x with
    | none => rw [none_add, none_add]
    | some a => exact addNum_eq_of_zeros hb hb' fun ha => hx (congrArg some ha)

end FpVal.SameButZeroSign

end Sys2Proof.Machine
end

section
/-! PROOFS. The twiddles of the two directions (42_twiddle.md R122): one step of the recurrence takes conjugate factors
to conjugate factors, up to the sign of a zero. -/

namespace Sys2Proof.Machine

/-! ### One step on values -/

section Step
variable {wr wr' wi wi' : FpVal} (c sn : FpVal)

/-- The two products of the imaginary parts and sines are the same: both factors are negated. -/
theorem FpVal.mul_conj (him : FpVal.SameButZeroSign wi' (FpVal.neg wi)) :
    FpVal.SameButZeroSign (FpVal.mul wi' (FpVal.neg sn)) (FpVal.mul wi sn) := by
  have h := him.mul_right (FpVal.neg sn)
  rwa [FpVal.neg_mul, FpVal.mul_neg wi, FpVal.neg_neg] at h

theorem FpVal.step_re_conj (hre : FpVal.SameButZeroSign wr' wr) (him : FpVal.SameButZeroSign wi' (FpVal.neg wi)) :
    FpVal.SameButZeroSign (FpVal.sub (FpVal.mul wr' c) (FpVal.mul wi' (FpVal.neg sn)))
      (FpVal.sub (FpVal.mul wr c) (FpVal.mul wi sn)) :=
  (hre.mul_right c).sub (FpVal.mul_conj sn him)

theorem FpVal.step_im_conj (hre : FpVal.SameButZeroSign wr' wr) (him : FpVal.SameButZeroSign wi' (FpVal.neg wi)) :
    FpVal.SameButZeroSign (FpVal.add (FpVal.mul wi' c) (FpVal.mul wr' (FpVal.neg sn)))
      (FpVal.neg (FpVal.add (FpVal.mul wi c) (FpVal.mul wr sn))) := by
  have hsum := (him.mul_right c).add (hre.mul_right (FpVal.neg sn))
  rw [FpVal.neg_mul, FpVal.mul_neg wr] at hsum
  exact hsum.trans (FpVal.SameButZeroSign.neg_add_neg _ _)

/-- The real part is the same bit for bit, but where zeros that are not negated meet a `-0`. -/
theorem FpVal.step_re_conj_eq (him : FpVal.SameButZeroSign wi' (FpVal.neg wi))
    (hexact : wi' = FpVal.neg wi ∨ FpVal.mul wr c ≠ some 0x8000000000000000#64) :
    FpVal.sub (FpVal.mul wr c) (FpVal.mul wi' (FpVal.neg sn)) = FpVal.sub (FpVal.mul wr c) (FpVal.mul wi sn) := by
  obtain rfl | hne := hexact
  · rw [FpVal.neg_mul, FpVal.mul_neg, FpVal.neg_neg]
  · exact (FpVal.mul_conj sn him).neg.add_left_eq hne

end Step

/-! ### One TWSTEP -/

/-- How `Conjugate` says of two words that the values are negated up to the sign of a zero. -/
theorem sameButZeroSign_neg_fpVal {a b : Word} :
    FpVal.SameButZeroSign (fpVal b) (FpVal.neg (fpVal a)) ↔
      fpVal b = FpVal.neg (fpVal a) ∨ (isZero b = true ∧ isZero a = true) := by
  rw [FpVal.SameButZeroSign, FpVal.isZero_neg, FpVal.isZero_fpVal, FpVal.isZero_fpVal]

theorem Conjugate.twstep {s s' : State} (h : Conjugate s s')
    (hexact : fpVal s'.wi = FpVal.neg (fpVal s.wi) ∨ mulNum s.wr s.ct ≠ some 0x8000000000000000#64) :
    Conjugate (Machine.twstep s) (Machine.twstep s') where
  wr := by
    rw [← FpVal.mul_fpVal] at hexact
    rw [fpVal_wr_twstep, fpVal_wr_twstep, h.wr, h.ct, h.st, fpVal_fneg]
    exact FpVal.step_re_conj_eq _ _ (sameButZeroSign_neg_fpVal.2 h.wi) hexact
  ct := h.ct
  st := h.st
  wi := by
    refine sameButZeroSign_neg_fpVal.1 ?_
    rw [fpVal_wi_twstep, fpVal_wi_twstep, h.wr, h.ct, h.st, fpVal_fneg]
    exact FpVal.step_im_conj _ _ (.refl _) (sameButZeroSign_neg_fpVal.2 h.wi)

/-! ### The seeds and the rows -/

theorem isZero_zero64 : isZero zero64 = true := by decide

theorem conjugate_twseed (row : Nat) (s s' : State) :
    Conjugate (twseed row .forward s) (twseed row .inverse s') := ⟨rfl, rfl, rfl, .inr ⟨isZero_zero64, isZero_zero64⟩⟩

/-- No cosine of the ROM is `-0` (42_twiddle.md R110), so the first step is exact. -/
theorem mulNum_one_romC_ne {row : Nat} (h : row ≤ 22) : mulNum one64 (romC row) ≠ some 0x8000000000000000#64 := by
  have hrom : ∀ r < 23, isNaN (romC r) = false ∧ romC r ≠ 0x8000000000000000#64 := by decide
  obtain ⟨hnum, hne⟩ := hrom row (by omega)
  rw [mulNum_one_left hnum]
  exact fun heq => hne (Option.some.inj heq)

/-- The two `W` of a row and offset are conjugate up to the sign of a zero (42_twiddle.md R122). -/
theorem twiddleW_conj (row mi : Nat) :
    FpVal.SameButZeroSign (twiddleW row .inverse mi).1 (twiddleW row .forward mi).1 ∧
      FpVal.SameButZeroSign (twiddleW row .inverse mi).2 (FpVal.neg (twiddleW row .forward mi).2) := by
  induction mi with
  | zero => exact ⟨.refl _, .inr ⟨rfl, rfl⟩⟩
  | succ mi ih =>
    obtain ⟨hre, him⟩ := ih
    simp only [twiddleW, romSin, fpVal_fneg]
    exact ⟨FpVal.step_re_conj _ _ hre him, FpVal.step_im_conj _ _ hre him⟩

/-- Without a `-0` on the way the real part is the same bit for bit. -/
theorem twiddleW_re_conj_eq (row mi : Nat)
    (hne : ∀ m < mi, FpVal.mul (twiddleW row .forward m).1 (fpVal (romC row)) ≠ some 0x8000000000000000#64) :
    (twiddleW row .inverse mi).1 = (twiddleW row .forward mi).1 := by
  induction mi with
  | zero => rfl
  | succ mi ih =>
    have hre := ih fun m hm => hne m (by omega)
    simp only [twiddleW, romSin, fpVal_fneg, hre]
    exact FpVal.step_re_conj_eq _ _ (twiddleW_conj row mi).2 (.inr (hne mi (Nat.lt_succ_self mi)))

/-- Settles O17: one step keeps conjugates by the negation rules of sum and product, and the rows by induction. -/
theorem twstepKeepsConjugates : Obligations.TwstepKeepsConjugates := by
  refine ⟨fun s s' row hrow hrow' => ?_, fun s s' h hexact => ⟨twstep s, twstep s', rfl, rfl, h.twstep hexact⟩,
    fun row mi => ?_⟩
  · have hseed := conjugate_twseed row s s'
    have hrom := (Config.logn_range s.cfg).2
    refine ⟨twseed row .forward s, twseed row .inverse s', _, _, ?_, ?_, rfl, rfl, hseed, rfl, rfl,
      hseed.twstep (.inr (mulNum_one_romC_ne (by omega)))⟩ <;>
      exact if_pos (by simpa [MicroOp.inRange])
  · obtain ⟨hre, him⟩ := twiddleW_conj row mi
    refine ⟨hre, ?_, twiddleW_re_conj_eq row mi⟩
    rwa [FpVal.SameButZeroSign, FpVal.isZero_neg] at him

end Sys2Proof.Machine
end

section
/-! PROOFS. The micro-operations of the complex core and of the DC/Nyquist step as equations on values (43_butterfly.md
R130, R134; 44_realfft.md R152, R153). -/

namespace Sys2Proof.Machine

/-! ### BFLY -/

@[simp] theorem Cplx.part_zero (z : Cplx) : z.part 0 = z.1 := rfl
@[simp] theorem Cplx.part_one (z : Cplx) : z.part 1 = z.2 := rfl

/-- The upper results: the old words plus the rotated lower ones. -/
theorem signal_bfly_upper (s : State) (k j : Nat) {p : Nat} (hp : p < 2) :
    (bfly k j s).signal (k + p) =
      FpVal.add (s.signal (k + p)) ((Cplx.rotate (fpPair (s.wr, s.wi)) (s.signal j, s.signal (j + 1))).part p) := by
  obtain rfl | rfl := Nat.le_one_iff_eq_zero_or_eq_one.1 (Nat.le_of_lt_succ hp)
  · simp [bfly, State.signal, State.D_setD, Cplx.rotate, fpPair]
  · simp [bfly, State.signal, Cplx.rotate, fpPair]

/-- The lower results: the old upper words minus the rotated lower ones. -/
theorem signal_bfly_lower (s : State) {k j p : Nat} (hkj : k + 1 < j) (hp : p < 2) :
    (bfly k j s).signal (j + p) =
      FpVal.sub (s.signal (k + p)) ((Cplx.rotate (fpPair (s.wr, s.wi)) (s.signal j, s.signal (j + 1))).part p) := by
  have hne : j ≠ k ∧ j ≠ k + 1 ∧ j + 1 ≠ k ∧ j + 1 ≠ k + 1 := by omega
  obtain rfl | rfl := Nat.le_one_iff_eq_zero_or_eq_one.1 (Nat.le_of_lt_succ hp)
  · simp [bfly, State.signal, State.D_setD, Cplx.rotate, fpPair, hne]
  · simp [bfly, State.signal, State.D_setD, Cplx.rotate, fpPair, hne]

theorem D_bfly_of_ne (s : State) {k j i : Nat} (h : i ≠ k ∧ i ≠ k + 1 ∧ i ≠ j ∧ i ≠ j + 1) :
    (bfly k j s).D i = s.D i :=
  D_applyOp_of_not_mem_words (op := .bfly k j) (by simpa [MicroOp.words] using h) s

/-- Settles O13: the two results of each kind, real and imaginary part; the other words are not named. -/
theorem bflyComputesTheButterfly : Obligations.BflyComputesTheButterfly := by
  intro s k j hkj hj
  have hrange : (MicroOp.bfly k j).inRange s.cfg = true := by
    simp only [MicroOp.inRange, Bool.and_eq_true, decide_eq_true_eq]
    omega
  refine ⟨bfly k j s, by rw [perform_eq, if_pos hrange]; rfl, ⟨?_, ?_, ?_, ?_⟩,
    fun i hk hk' hj hj' => D_bfly_of_ne s ⟨hk, hk', hj, hj'⟩, rfl⟩
  · simpa [State.signal, fpPair] using signal_bfly_upper s k j Nat.two_pos
  · simpa [State.signal, fpPair] using signal_bfly_upper s k j Nat.one_lt_two
  · simpa [State.signal, fpPair] using signal_bfly_lower s hkj Nat.two_pos
  · simpa [State.signal, fpPair] using signal_bfly_lower s hkj Nat.one_lt_two

/-! ### SCALE and RDC -/

theorem fpVal_of_isFinite {w : Word} (h : isFinite w = true) : fpVal w = some w := fpVal_of_num (isNaN_of_isFinite h)

theorem fpVal_pow2Neg {r : Nat} (h : r ≤ 22) : fpVal (pow2Neg r) = some (pow2Neg r) :=
  fpVal_of_isFinite (isFinite_pow2Neg h)

theorem signal_scale (s : State) (i : Nat) {r : Nat} (hr : r ≤ 22) :
    (scale i r s).signal = Function.update s.signal i (FpVal.mul (s.signal i) (some (pow2Neg r))) := by
  rw [scale, signal_useDraws, signal_setD, fpVal_fmul, fpVal_pow2Neg hr]
  rfl

theorem signal_rdc (d : Dir) (s : State) :
    (rdc d s).signal =
      Function.update (Function.update s.signal 0 (edgeResults d s.signal).1) 1 (edgeResults d s.signal).2 := by
  have hhalf : fpVal half64 = some half64 := fpVal_of_isFinite rfl
  cases d <;>
    simp only [rdc, signal_useDraws, signal_setD, fpVal_fadd, fpVal_fsub, fpVal_fmul, hhalf] <;> rfl

theorem perform_rdc (d : Dir) (s : State) : perform (.rdc d) s = .ok (rdc d s) := by
  have hwords : 1 < s.cfg.dmemWords := (signal_le_dmemWords (Nat.zero_le s.cfg.logn)).trans_lt' Nat.one_lt_two
  rw [perform_eq, if_pos (by simpa [MicroOp.inRange] using hwords)]
  rfl

/-- What RDC does, in the form in which it is claimed of both directions. -/
theorem rdc_spec (d : Dir) (s : State) :
    fpVal ((rdc d s).D 0) = (edgeResults d s.signal).1 ∧ fpVal ((rdc d s).D 1) = (edgeResults d s.signal).2 ∧
      (∀ m, 1 < m → (rdc d s).D m = s.D m) ∧
      rdc d s = { s with dmem := (rdc d s).dmem, draw := (rdc d s).draw } := by
  have hsignal := congrFun (signal_rdc d s)
  refine ⟨(hsignal 0).trans rfl, (hsignal 1).trans rfl, fun m hm => ?_, ?_⟩
  · refine D_applyOp_of_not_mem_words (op := .rdc d) ?_ s
    simp only [MicroOp.words, List.mem_cons, List.not_mem_nil, or_false]
    omega
  · exact applyOp_frame_of_words (op := .rdc d) (List.cons_ne_nil _ _) s

/-- Settles O14: the values of SCALE and RDC as updates of the signal. -/
theorem scaleAndEdgeSteps : Obligations.ScaleAndEdgeSteps := by
  refine ⟨fun s i r hr hi => ?_, fun s => ⟨_, perform_rdc .forward s, rdc_spec .forward s⟩,
    fun s => ⟨_, perform_rdc .inverse s, rdc_spec .inverse s⟩⟩
  have hvalue := congrFun (signal_scale s i hr) i
  rw [Function.update_self] at hvalue
  refine ⟨scale i r s, ?_, hvalue, fun m hm => State.D_setD_ne s hm _, rfl⟩
  rw [perform_eq, if_pos (by simpa [MicroOp.inRange] using hi)]
  rfl

end Sys2Proof.Machine
end

section
/-! PROOFS. The stage of the butterfly network (43_butterfly.md R130 to R132) as SEQ performs it, one butterfly after the
other, against the stage as an equation for every word. -/

namespace Sys2Proof.Machine

/-! ### The words of a butterfly -/

/-- The first word of the butterfly of offset `mi` and group `g` at stage `row` (43_butterfly.md R131); its words are this
and the next one, and the two that lie `2 * 2^row` above. -/
def firstWord (row mi g : Nat) : Nat := 2 * mi + g * (2 * (2 * 2 ^ row))

/-- Word `i` belongs to the butterfly of offset `mi` and group `g` at stage `row`. -/
def InButterfly (row mi g i : Nat) : Prop := i / 2 % 2 ^ row = mi ∧ i / 2 / (2 * 2 ^ row) = g

variable {row mi g i p : Nat}

/-- The sample of an upper word: its bit `row` is clear. -/
theorem upperWord_eq (hp : p < 2) :
    (firstWord row mi g + p) / 2 = mi + 2 ^ row * (2 * g) ∧ (firstWord row mi g + p) % 2 = p := by
  have h : g * (2 * (2 * 2 ^ row)) = 2 * (2 ^ row * (2 * g)) := by ring
  unfold firstWord
  omega

/-- The sample of a lower word: its bit `row` is set. -/
theorem lowerWord_eq (hp : p < 2) :
    (firstWord row mi g + 2 * 2 ^ row + p) / 2 = mi + 2 ^ row * (2 * g + 1) ∧
      (firstWord row mi g + 2 * 2 ^ row + p) % 2 = p := by
  have h : g * (2 * (2 * 2 ^ row)) = 2 * (2 ^ row * (2 * g)) := by ring
  unfold firstWord
  rw [Nat.mul_add]
  omega

/-- A sample's offset, its bit `row` and its group. -/
theorem sample_coords (hmi : mi < 2 ^ row) (q : Nat) :
    (mi + 2 ^ row * q) % 2 ^ row = mi ∧ (mi + 2 ^ row * q) / 2 ^ row = q ∧
      (mi + 2 ^ row * q) / (2 * 2 ^ row) = q / 2 := by
  have hquot : (mi + 2 ^ row * q) / 2 ^ row = q := by
    rw [Nat.add_mul_div_left _ _ (Nat.two_pow_pos row), Nat.div_eq_of_lt hmi, Nat.zero_add]
  refine ⟨by rw [Nat.add_mul_mod_self_left, Nat.mod_eq_of_lt hmi], hquot, ?_⟩
  rw [Nat.mul_comm 2, ← Nat.div_div_eq_div_mul, hquot]

theorem inButterfly_upper (hmi : mi < 2 ^ row) (hp : p < 2) : InButterfly row mi g (firstWord row mi g + p) := by
  obtain ⟨hoffset, -, hgroup⟩ := sample_coords hmi (2 * g)
  rw [InButterfly, (upperWord_eq hp).1]
  exact ⟨hoffset, by omega⟩

theorem inButterfly_lower (hmi : mi < 2 ^ row) (hp : p < 2) :
    InButterfly row mi g (firstWord row mi g + 2 * 2 ^ row + p) := by
  obtain ⟨hoffset, -, hgroup⟩ := sample_coords hmi (2 * g + 1)
  rw [InButterfly, (lowerWord_eq hp).1]
  exact ⟨hoffset, by omega⟩

/-- A butterfly has no other words. -/
theorem InButterfly.cases (h : InButterfly row mi g i) :
    ∃ p < 2, i = firstWord row mi g + p ∨ i = firstWord row mi g + 2 * 2 ^ row + p := by
  obtain ⟨rfl, rfl⟩ := h
  have hsample : i / 2 % 2 ^ row + 2 ^ row * (i / 2 / 2 ^ row) = i / 2 := Nat.mod_add_div _ _
  have hbit : i / 2 / 2 ^ row = 2 * (i / 2 / (2 * 2 ^ row)) + i / 2 / 2 ^ row % 2 := by
    rw [Nat.mul_comm 2 (2 ^ row), ← Nat.div_div_eq_div_mul]
    omega
  have hg : i / 2 / (2 * 2 ^ row) * (2 * (2 * 2 ^ row)) = 2 * (2 ^ row * (2 * (i / 2 / (2 * 2 ^ row)))) := by ring
  refine ⟨i % 2, Nat.mod_lt i Nat.two_pos, ?_⟩
  rw [hbit, Nat.mul_add] at hsample
  unfold firstWord
  obtain h | h := Nat.mod_two_eq_zero_or_one (i / 2 / 2 ^ row) <;> rw [h] at hsample
  · left
    omega
  · right
    omega

/-! ### The stage at one butterfly -/

variable {tw tw' : Nat → Cplx} {x x' : Signal}

theorem stage_upperWord (tw : Nat → Cplx) (x : Signal) (g : Nat) (hmi : mi < 2 ^ row) (hp : p < 2) :
    stage tw row x (firstWord row mi g + p) =
      FpVal.add (x (firstWord row mi g + p))
        ((Cplx.rotate (tw mi)
          (x (firstWord row mi g + 2 * 2 ^ row), x (firstWord row mi g + 2 * 2 ^ row + 1))).part p) := by
  obtain ⟨hsample, hpart⟩ := upperWord_eq (row := row) (mi := mi) (g := g) hp
  obtain ⟨hoffset, hbit, -⟩ := sample_coords hmi (2 * g)
  have hlo : 2 * (mi + 2 ^ row * (2 * g)) = firstWord row mi g := by unfold firstWord; ring
  have hhi : 2 * (mi + 2 ^ row * (2 * g) + 2 ^ row) = firstWord row mi g + 2 * 2 ^ row := by unfold firstWord; ring
  simp only [stage, hsample, hpart, hoffset, hbit, Nat.mul_mod_right, beq_self_eq_true, if_true, hlo, hhi,
    Cplx.part, Nat.mod_eq_of_lt hp]

theorem stage_lowerWord (tw : Nat → Cplx) (x : Signal) (g : Nat) (hmi : mi < 2 ^ row) (hp : p < 2) :
    stage tw row x (firstWord row mi g + 2 * 2 ^ row + p) =
      FpVal.sub (x (firstWord row mi g + p))
        ((Cplx.rotate (tw mi)
          (x (firstWord row mi g + 2 * 2 ^ row), x (firstWord row mi g + 2 * 2 ^ row + 1))).part p) := by
  obtain ⟨hsample, hpart⟩ := lowerWord_eq (row := row) (mi := mi) (g := g) hp
  obtain ⟨hoffset, hbit, -⟩ := sample_coords hmi (2 * g + 1)
  have hodd : ((2 * g + 1) % 2 == 0) = false := by rw [Nat.mul_add_mod]; rfl
  have hlo : 2 * (mi + 2 ^ row * (2 * g + 1) - 2 ^ row) = firstWord row mi g := by
    rw [Nat.mul_add, Nat.mul_one, ← Nat.add_assoc, Nat.add_sub_cancel]
    unfold firstWord
    ring
  have hhi : 2 * (mi + 2 ^ row * (2 * g + 1) - 2 ^ row + 2 ^ row) = firstWord row mi g + 2 * 2 ^ row := by
    rw [Nat.mul_add, hlo]
  simp only [stage, hsample, hpart, hoffset, hbit, hodd, Bool.false_eq_true, if_false, hlo, hhi,
    Cplx.part, Nat.mod_eq_of_lt hp]

/-- A stage's words depend on their own butterfly alone: its twiddle factor and its four words. -/
theorem stage_congr (hmi : mi < 2 ^ row) (hi : InButterfly row mi g i) (htw : tw mi = tw' mi)
    (hx : ∀ a, InButterfly row mi g a → x a = x' a) : stage tw row x i = stage tw' row x' i := by
  have hupper : ∀ p < 2, x (firstWord row mi g + p) = x' (firstWord row mi g + p) :=
    fun p hp => hx _ (inButterfly_upper hmi hp)
  have hlower0 := hx _ (inButterfly_lower hmi Nat.two_pos)
  have hlower1 := hx _ (inButterfly_lower hmi Nat.one_lt_two)
  rw [Nat.add_zero] at hlower0
  obtain ⟨p, hp, rfl | rfl⟩ := hi.cases
  · rw [stage_upperWord tw x g hmi hp, stage_upperWord tw' x' g hmi hp, hupper p hp, hlower0, hlower1, htw]
  · rw [stage_lowerWord tw x g hmi hp, stage_lowerWord tw' x' g hmi hp, hupper p hp, hlower0, hlower1, htw]

/-! ### One butterfly, one offset -/

/-- The butterfly as SEQ names it (43_butterfly.md R132). -/
def butterfly (row mi g : Nat) : MicroOp := .bfly (firstWord row mi g) (firstWord row mi g + 2 * 2 ^ row)

theorem seqOffset_eq_map (n row mi : Nat) :
    seqOffset n row mi = (List.range (n / (2 * 2 ^ row))).map (butterfly row mi) := rfl

theorem signal_butterfly_of_in (s : State) (hmi : mi < 2 ^ row) (hi : InButterfly row mi g i) :
    (applyOp (butterfly row mi g) s).signal i = stage (fun _ => fpPair (s.wr, s.wi)) row s.signal i := by
  have hdisjoint : firstWord row mi g + 1 < firstWord row mi g + 2 * 2 ^ row := by
    have := Nat.two_pow_pos row
    omega
  obtain ⟨p, hp, rfl | rfl⟩ := hi.cases
  · rw [stage_upperWord _ _ g hmi hp]
    exact signal_bfly_upper s _ _ hp
  · rw [stage_lowerWord _ _ g hmi hp]
    exact signal_bfly_lower s hdisjoint hp

theorem signal_butterfly_of_not_in (s : State) (hmi : mi < 2 ^ row) (hi : ¬ InButterfly row mi g i) :
    (applyOp (butterfly row mi g) s).signal i = s.signal i := by
  have hne : ∀ p < 2, i ≠ firstWord row mi g + p ∧ i ≠ firstWord row mi g + 2 * 2 ^ row + p := fun p hp =>
    ⟨fun h => hi (h ▸ inButterfly_upper hmi hp), fun h => hi (h ▸ inButterfly_lower hmi hp)⟩
  obtain ⟨h0, h0'⟩ := hne 0 Nat.two_pos
  obtain ⟨h1, h1'⟩ := hne 1 Nat.one_lt_two
  exact congrArg fpVal (D_bfly_of_ne s ⟨h0, h1, h0', h1'⟩)

/-- Word `i` belongs to one of the first `k` offsets, each of `count` butterflies, or to the first `j` butterflies of
offset `k`. -/
def Before (row count k j i : Nat) : Prop :=
  (i / 2 % 2 ^ row < k ∧ i / 2 / (2 * 2 ^ row) < count) ∨ (i / 2 % 2 ^ row = k ∧ i / 2 / (2 * 2 ^ row) < j)

/-- `y` is `x` in the middle of a stage: the words reached so far are the stage's, the others are as before. -/
structure StageUpTo (tw : Nat → Cplx) (row count k j : Nat) (x y : Signal) : Prop where
  done : ∀ i, Before row count k j i → y i = stage tw row x i
  rest : ∀ i, ¬ Before row count k j i → y i = x i

variable {count k j : Nat} {s t : State}

theorem stageUpTo_start (tw : Nat → Cplx) (row count : Nat) (x : Signal) : StageUpTo tw row count 0 0 x x where
  done i hi := by simp [Before] at hi
  rest _ _ := rfl

/-- The butterfly's words are still the old ones, so it makes the stage's of them (43_butterfly.md R131). -/
theorem StageUpTo.butterfly (h : StageUpTo tw row count k j x s.signal) (hk : k < 2 ^ row)
    (hw : fpPair (s.wr, s.wi) = tw k) :
    StageUpTo tw row count k (j + 1) x (applyOp (butterfly row k j) s).signal := by
  have hnext : ∀ i, Before row count k (j + 1) i ↔ Before row count k j i ∨ InButterfly row k j i := fun i => by
    unfold Before InButterfly
    omega
  have hold : ∀ i, InButterfly row k j i → ¬ Before row count k j i := fun i => by
    unfold Before InButterfly
    omega
  constructor
  · intro i hi
    by_cases hin : InButterfly row k j i
    · rw [signal_butterfly_of_in s hk hin]
      exact stage_congr hk hin hw fun a ha => h.rest a (hold a ha)
    · rw [signal_butterfly_of_not_in s hk hin]
      exact h.done i (((hnext i).1 hi).resolve_right hin)
  · intro i hi
    rw [hnext, not_or] at hi
    rw [signal_butterfly_of_not_in s hk hi.2]
    exact h.rest i hi.1

/-- Work on DMEM writes DMEM and the draw counter alone. -/
theorem effects_frame_of_words {ops : List MicroOp} (h : ∀ op ∈ ops, op.words ≠ []) (s : State) :
    effects ops s = { s with dmem := (effects ops s).dmem, draw := (effects ops s).draw } := by
  induction ops generalizing s with
  | nil => rfl
  | cons op ops ih =>
    obtain ⟨hop, hops⟩ := List.forall_mem_cons.1 h
    rw [effects_cons, ih hops, applyOp_frame_of_words hop]

/-- The butterflies of one offset, all with one twiddle factor. -/
theorem StageUpTo.butterflies (h : StageUpTo tw row count k 0 x s.signal) (hk : k < 2 ^ row)
    (hw : fpPair (s.wr, s.wi) = tw k) (j : Nat) :
    StageUpTo tw row count k j x (effects ((List.range j).map (Machine.butterfly row k)) s).signal := by
  induction j with
  | zero => exact h
  | succ j ih =>
    rw [List.range_succ, List.map_append, effects_append]
    refine ih.butterfly hk ?_
    rw [effects_frame_of_words fun op hop => ?_]
    · exact hw
    · obtain ⟨g, -, rfl⟩ := List.mem_map.1 hop
      exact List.cons_ne_nil _ _

theorem StageUpTo.nextOffset (h : StageUpTo tw row count k count x x') : StageUpTo tw row count (k + 1) 0 x x' := by
  have hnext : ∀ i, Before row count (k + 1) 0 i ↔ Before row count k count i := fun i => by
    simp only [Before, Nat.not_lt_zero, and_false, or_false]
    omega
  exact ⟨fun i hi => h.done i ((hnext i).1 hi), fun i hi => h.rest i fun hi' => hi ((hnext i).2 hi')⟩

/-! ### One stage -/

variable {d : Dir} {twm : TwMode} {n : Nat}

/-- The registers stand at the last of the first `k` offsets of the row, where the mode computes its factors. -/
def GeneratorAt (row : Nat) (d : Dir) (twm : TwMode) (k : Nat) (s : State) : Prop :=
  twm = .recurrence → ∀ mi, k = mi + 1 → AtOffset row d mi s

theorem generatorAt_zero (row : Nat) (d : Dir) (twm : TwMode) (s : State) : GeneratorAt row d twm 0 s :=
  fun _ _ h => nomatch h

/-- `seq_twiddle` brings the factor of its offset into WR and WI in either mode, and leaves the tables (42_twiddle.md
R118). -/
theorem GeneratorAt.seqTwiddle (h : GeneratorAt row d twm k s) :
    let u := effects (seqTwiddle row k d twm) s
    fpPair (u.wr, u.wi) = twiddleOf s d twm row k ∧ GeneratorAt row d twm (k + 1) u ∧
      ∀ d' e, u.T d' e = s.T d' e := by
  cases twm with
  | recurrence =>
    obtain ⟨hat, hT⟩ := effects_seqTwiddle_recurrence (h rfl)
    refine ⟨hat.w, ?_, hT⟩
    rintro - mi hmi
    obtain rfl : k = mi := by omega
    exact hat
  | table => exact ⟨rfl, nofun, fun d' e => State.T_setW _ _ _ d' e⟩

theorem GeneratorAt.onWords {ops : List MicroOp} (h : GeneratorAt row d twm k s) (hops : ∀ op ∈ ops, op.words ≠ []) :
    GeneratorAt row d twm k (effects ops s) := fun htwm mi hmi => (h htwm mi hmi).onWords hops

theorem T_effects_of_words {ops : List MicroOp} (h : ∀ op ∈ ops, op.words ≠ []) (s : State) (d : Dir) (e : Nat) :
    (effects ops s).T d e = s.T d e := by
  rw [effects_frame_of_words h]
  exact State.T_congr rfl rfl rfl d e

/-- The twiddle factors are the tables' alone. -/
theorem twiddleOf_congr (h : ∀ d e, t.T d e = s.T d e) : twiddleOf t d twm = twiddleOf s d twm := by
  funext row mi
  cases twm <;> simp [twiddleOf, h]

/-- `t` comes from `s` by the first `k` offsets of stage `row` on `2^n` samples. -/
structure OffsetsDone (n row : Nat) (d : Dir) (twm : TwMode) (k : Nat) (s t : State) : Prop where
  upTo : StageUpTo (twiddleOf s d twm row) row (2 ^ n / (2 * 2 ^ row)) k 0 s.signal t.signal
  generator : GeneratorAt row d twm k t
  tables : ∀ d' e, t.T d' e = s.T d' e

theorem OffsetsDone.offset (h : OffsetsDone n row d twm k s t) (hk : k < 2 ^ row) :
    OffsetsDone n row d twm (k + 1) s (effects (seqTwiddle row k d twm ++ seqOffset (2 ^ n) row k) t) := by
  obtain ⟨hw, hgenerator, hT⟩ := h.generator.seqTwiddle
  have hsignal := signal_effects_of_words_nil (ops := seqTwiddle row k d twm) (fun _ => words_of_mem_seqTwiddle) t
  rw [twiddleOf_congr h.tables] at hw
  rw [effects_append]
  refine ⟨?_, hgenerator.onWords fun _ => words_of_mem_seqOffset, fun d' e => ?_⟩
  · rw [seqOffset_eq_map]
    exact (StageUpTo.butterflies (hsignal ▸ h.upTo) hk hw _).nextOffset
  · rw [T_effects_of_words fun _ => words_of_mem_seqOffset, hT, h.tables]

theorem offsetsDone_seqStage (n row : Nat) (d : Dir) (twm : TwMode) (s : State) :
    OffsetsDone n row d twm (2 ^ row) s (effects (seqStage (2 ^ n) row d twm) s) := by
  have hprefix : ∀ k ≤ 2 ^ row, OffsetsDone n row d twm k s
      (effects ((List.range k).flatMap fun mi => seqTwiddle row mi d twm ++ seqOffset (2 ^ n) row mi) s) := by
    intro k hk
    induction k with
    | zero => exact ⟨stageUpTo_start _ _ _ _, generatorAt_zero _ _ _ _, fun _ _ => rfl⟩
    | succ k ih =>
      rw [List.range_succ, List.flatMap_append, effects_append, List.flatMap_singleton]
      exact (ih (by omega)).offset hk
  exact hprefix _ (Nat.le_refl _)

/-- The groups of a stage fill the signal. -/
theorem lt_signal_iff (hrow : row < n) : i < 2 * 2 ^ n ↔ i / 2 / (2 * 2 ^ row) < 2 ^ n / (2 * 2 ^ row) := by
  have hsplit : 2 ^ n = 2 ^ (n - row - 1) * (2 * 2 ^ row) := by
    rw [← Nat.pow_succ', ← Nat.pow_add]
    congr 1
    omega
  have hpos : 0 < 2 * 2 ^ row := by positivity
  rw [hsplit, Nat.mul_div_cancel _ hpos, Nat.div_lt_iff_lt_mul hpos, Nat.div_lt_iff_lt_mul Nat.two_pos, Nat.mul_comm 2]

/-- A stage of the sequence is the stage of the network, at every word of the signal (43_butterfly.md R131). -/
theorem signal_effects_seqStage (hrow : row < n) (s : State) (hi : i < 2 * 2 ^ n) :
    (effects (seqStage (2 ^ n) row d twm) s).signal i = stage (twiddleOf s d twm row) row s.signal i :=
  (offsetsDone_seqStage n row d twm s).upTo.done i
    (.inl ⟨Nat.mod_lt _ (Nat.two_pow_pos row), (lt_signal_iff hrow).1 hi⟩)

theorem T_effects_seqStage (n row : Nat) (d : Dir) (twm : TwMode) (s : State) (d' : Dir) (e : Nat) :
    (effects (seqStage (2 ^ n) row d twm) s).T d' e = s.T d' e :=
  (offsetsDone_seqStage n row d twm s).tables d' e

end Sys2Proof.Machine
end

section
/-! PROOFS. The complex core (43_butterfly.md R132 to R137): permutation, stages and scaling as SEQ performs them give
every word of the signal what the network's equations give it, and so do the four XFORM commands. -/

namespace Sys2Proof.Machine

variable {n row : Nat} {d : Dir} {twm : TwMode} {x y : Signal} {s t : State}

/-- `x` and `y` agree on a signal of `2^n` samples. -/
def AgreeOn (n : Nat) (x y : Signal) : Prop := ∀ i < 2 * 2 ^ n, x i = y i

/-! ### The stages -/

/-- A stage inside the signal depends on the signal alone. -/
theorem AgreeOn.stage (h : AgreeOn n x y) (tw : Nat → Cplx) (hrow : row < n) :
    AgreeOn n (stage tw row x) (stage tw row y) := fun i hi => by
  rw [lt_signal_iff hrow] at hi
  refine stage_congr (Nat.mod_lt _ (Nat.two_pow_pos row)) ⟨rfl, rfl⟩ rfl fun a ha => h a ?_
  rwa [lt_signal_iff hrow, ha.2]

/-- The stages one after the other (43_butterfly.md R132). -/
theorem agreeOn_seqStages (n : Nat) (d : Dir) (twm : TwMode) (h : AgreeOn n s.signal x) :
    AgreeOn n (effects (seqStages (2 ^ n) d twm) s).signal (stages (twiddleOf s d twm) n x) := by
  have hprefix : ∀ k ≤ n,
      let u := effects ((List.range k).flatMap fun row => seqStage (2 ^ n) row d twm) s
      AgreeOn n u.signal (stages (twiddleOf s d twm) k x) ∧ ∀ d' e, u.T d' e = s.T d' e := by
    intro k hk
    induction k with
    | zero => exact ⟨h, fun _ _ => rfl⟩
    | succ k ih =>
      obtain ⟨hsignal, hT⟩ := ih (by omega)
      rw [List.range_succ, List.flatMap_append, effects_append, List.flatMap_singleton]
      refine ⟨fun i hi => ?_, fun d' e => by rw [T_effects_seqStage, hT]⟩
      rw [signal_effects_seqStage (by omega) _ hi, twiddleOf_congr hT]
      exact hsignal.stage _ (by omega) i hi
  rw [seqStages, log2_two_pow]
  exact (hprefix n (Nat.le_refl n)).1

/-! ### The permutation and the scaling -/

/-- The permutation moves values as it moves words (41_bitrev.md R101). -/
theorem agreeOn_seqPermute (h : AgreeOn n s.signal x) :
    AgreeOn n (effects (seqPermute (2 ^ n)) s).signal (permuted n x) := fun i hi => by
  have hsource : permutedWord n i = 2 * revBits n (i / 2) + i % 2 := by
    rw [permutedWord, permutedSample_of_lt (by omega)]
  have hrev := revBits_lt n (i / 2)
  rw [State.signal, D_effects_seqPermute, hsource, permuted]
  exact h _ (by omega)

/-- Scaling word after word multiplies each word once (43_butterfly.md R135). -/
theorem signal_effects_scales {r : Nat} (hr : r ≤ 22) (count : Nat) (s : State) (i : Nat) :
    (effects ((List.range count).map fun i => .scale i r) s).signal i =
      if i < count then FpVal.mul (s.signal i) (some (pow2Neg r)) else s.signal i := by
  induction count with
  | zero => rfl
  | succ count ih =>
    rw [List.range_succ, List.map_append, effects_append]
    show (scale count r _).signal i = _
    rw [signal_scale _ _ hr, Function.update_apply]
    by_cases hi : i = count
    · subst hi
      rw [if_pos rfl, ih, if_neg (Nat.lt_irrefl i), if_pos (Nat.lt_succ_self i)]
    · rw [if_neg hi, ih]
      exact if_congr (by omega) rfl rfl

theorem agreeOn_seqScale (hn : n ≤ 22) (h : AgreeOn n s.signal x) :
    AgreeOn n (effects (seqScale (2 ^ n) d) s).signal (scaled n d x) := fun i hi => by
  cases d with
  | forward => exact h i hi
  | inverse => rw [seqScale, log2_two_pow, signal_effects_scales hn, if_pos hi, h i hi, scaled]

/-! ### The core -/

theorem T_effects_seqPermute (n : Nat) (s : State) (d : Dir) (e : Nat) :
    (effects (seqPermute (2 ^ n)) s).T d e = s.T d e :=
  T_effects_of_words (fun op hop => by
    obtain ⟨a, b, rfl, -⟩ := eq_swapc_of_mem_seqPermute hop
    exact List.cons_ne_nil _ _) s d e

/-- The core of `2^n` samples computes the core's equations, whatever stands beyond the signal (43_butterfly.md R136). -/
theorem agreeOn_seqCore (d : Dir) (twm : TwMode) (hn : n ≤ 22) (h : AgreeOn n s.signal x) :
    AgreeOn n (effects (seqCore (2 ^ n) d twm) s).signal (coreSignal (twiddleOf s d twm) n d x) := by
  have hstages := agreeOn_seqStages n d twm (agreeOn_seqPermute h)
  rw [twiddleOf_congr (T_effects_seqPermute n s)] at hstages
  rw [seqCore, effects_append, effects_append]
  exact agreeOn_seqScale hn hstages

/-! ### The commands -/

/-- Work on the signal writes DMEM, the working registers and the draw counter alone (42_twiddle.md R125). -/
theorem effects_frame_of_isSignalWork {c : Config} {ops : List MicroOp} (h : ∀ op ∈ ops, op.isSignalWork c = true)
    (s : State) :
    ∃ dmem wr wi ct st draw,
      effects ops s = { s with dmem := dmem, wr := wr, wi := wi, ct := ct, st := st, draw := draw } := by
  induction ops generalizing s with
  | nil => exact ⟨_, _, _, _, _, _, rfl⟩
  | cons op ops ih =>
    obtain ⟨hop, hops⟩ := List.forall_mem_cons.1 h
    obtain ⟨_, _, _, _, _, _, heq⟩ := ih hops (applyOp op s)
    rw [effects_cons, heq]
    cases op with
    | twstore _ _ | tset _ | finish _ => simp [MicroOp.isSignalWork] at hop
    | rdc d => cases d <;> exact ⟨_, _, _, _, _, _, rfl⟩
    | _ => exact ⟨_, _, _, _, _, _, rfl⟩

theorem tableOk_of_tag {m : Nat} (h : twm = .table → s.tblValid = true ∧ s.tblSize.toNat = m) :
    tableOk s.tag twm m = true := by
  cases twm with
  | recurrence => rfl
  | table => exact tableOk_table (h rfl).1 (h rfl).2

/-- Settles O26: the core's equations on the signal, the words that the core does not name, and the fields that no work on
the signal writes. -/
theorem xformComputesTheStageNetwork : Obligations.XformComputesTheStageNetwork := by
  intro s n d twm hb hn htag
  have hlogn := (Config.logn_range s.cfg).2
  have hwork : ∀ op ∈ seqCore (2 ^ n) d twm, op.isSignalWork s.cfg = true := fun op => isSignalWork_of_mem_seqCore hn
  obtain ⟨pend, hnext⟩ := exec_of_plan hb (planOf_xformInstr (d := d) hn (tableOk_of_tag htag))
  refine ⟨_, hnext, ?_, fun i hi => D_effects_of_wordsBelow ((IsSignalSeq.core d twm).wordsBelow hn) hi _, ?_⟩
  · exact agreeOn_seqCore (s := s.accept _ pend) d twm (by omega) fun _ _ => rfl
  · obtain ⟨_, _, _, _, _, _, heq⟩ := effects_frame_of_isSignalWork hwork (s.accept (encode (xformInstr d twm _)) pend)
    rw [heq]
    rfl

end Sys2Proof.Machine
end

section
/-! PROOFS. How many micro-operations of each kind a complex core has (43_butterfly.md R140): a predicate that looks at the
kind alone counts all or nothing of each part of the sequence. -/

namespace Sys2Proof.Machine

open Finset (range)

variable {p : MicroOp → Bool} {v : Bool}

theorem countP_of_forall_eq {ops : List MicroOp} (h : ∀ op ∈ ops, p op = v) : ops.countP p = v.toNat * ops.length := by
  cases v with
  | false => rw [Bool.toNat_false, Nat.zero_mul, List.countP_eq_zero.2 fun op hop => by simp [h op hop]]
  | true => rw [Bool.toNat_true, Nat.one_mul, List.countP_eq_length.2 h]

theorem countP_seqPermute (n : Nat) (h : ∀ a b, p (.swapc a b) = v) :
    (seqPermute (2 ^ n)).countP p = v.toNat * (seqPermute (2 ^ n)).length :=
  countP_of_forall_eq fun op hop => by
    obtain ⟨a, b, rfl, -⟩ := eq_swapc_of_mem_seqPermute hop
    exact h a b

theorem countP_seqScale (n : Nat) (d : Dir) (h : ∀ i r, p (.scale i r) = v) :
    (seqScale n d).countP p = v.toNat * if d = .inverse then 2 * n else 0 := by
  cases d with
  | forward => rfl
  | inverse =>
    rw [countP_of_forall_eq (v := v), if_pos rfl, seqScale, List.length_map, List.length_range]
    intro op hop
    obtain ⟨i, -, rfl⟩ := List.mem_map.1 hop
    exact h _ _

theorem countP_seqOffset (n s mi : Nat) (h : ∀ k j, p (.bfly k j) = v) :
    (seqOffset n s mi).countP p = v.toNat * (n / (2 * 2 ^ s)) := by
  rw [countP_of_forall_eq (v := v), seqOffset, List.length_map, List.length_range]
  intro op hop
  obtain ⟨g, -, rfl⟩ := List.mem_map.1 hop
  exact h _ _

theorem countP_flatMap_range (f : Nat → List MicroOp) (count : Nat) :
    ((List.range count).flatMap f).countP p = ∑ k ∈ range count, (f k).countP p := by
  induction count with
  | zero => rfl
  | succ count ih =>
    rw [List.range_succ, List.flatMap_append, List.countP_append, ih, List.flatMap_singleton, Finset.sum_range_succ]

/-- The twiddle micro-operations of a stage: one TWSEED and a TWSTEP per further offset, or one TWLOAD per offset
(42_twiddle.md R118). -/
def twiddleCount (p : MicroOp → Bool) (s : Nat) (d : Dir) (twm : TwMode) : Nat :=
  ∑ mi ∈ range (2 ^ s), (seqTwiddle s mi d twm).countP p

theorem countP_seqStage (n s : Nat) (d : Dir) (twm : TwMode) (h : ∀ k j, p (.bfly k j) = v) :
    (seqStage n s d twm).countP p = twiddleCount p s d twm + v.toNat * (2 ^ s * (n / (2 * 2 ^ s))) := by
  rw [seqStage, countP_flatMap_range]
  simp only [List.countP_append, countP_seqOffset n s _ h, Finset.sum_add_distrib, Finset.sum_const, Finset.card_range,
    smul_eq_mul, twiddleCount, Nat.mul_left_comm]

/-- Every stage has `N / 2` butterflies (43_butterfly.md R140). -/
theorem two_mul_butterflies {n s : Nat} (hs : s < n) : 2 * (2 ^ s * (2 ^ n / (2 * 2 ^ s))) = 2 ^ n := by
  have hdvd : 2 * 2 ^ s ∣ 2 ^ n := by
    rw [← Nat.pow_succ']
    exact Nat.pow_dvd_pow 2 hs
  rw [← Nat.mul_assoc, Nat.mul_div_cancel' hdvd]

theorem two_mul_countP_seqStages (n : Nat) (d : Dir) (twm : TwMode) (h : ∀ k j, p (.bfly k j) = v) :
    2 * (seqStages (2 ^ n) d twm).countP p = 2 * ∑ s ∈ range n, twiddleCount p s d twm + v.toNat * (2 ^ n * n) := by
  have hstage : ∀ s ∈ range n, 2 * (seqStage (2 ^ n) s d twm).countP p =
      2 * twiddleCount p s d twm + v.toNat * 2 ^ n := fun s hs => by
    rw [countP_seqStage _ _ _ _ h, Nat.mul_add, Nat.mul_left_comm 2, two_mul_butterflies (Finset.mem_range.1 hs)]
  rw [seqStages, log2_two_pow, countP_flatMap_range, Finset.mul_sum, Finset.sum_congr rfl hstage,
    Finset.sum_add_distrib, ← Finset.mul_sum, Finset.sum_const, Finset.card_range, smul_eq_mul]
  ring

/-- A core's micro-operations by the parts of its sequence, where the predicate gives each kind one answer. -/
theorem two_mul_countP_seqCore {vswap vbfly vscale : Bool} (n : Nat) (d : Dir) (twm : TwMode)
    (hswap : ∀ a b, p (.swapc a b) = vswap) (hbfly : ∀ k j, p (.bfly k j) = vbfly)
    (hscale : ∀ i r, p (.scale i r) = vscale) :
    2 * (seqCore (2 ^ n) d twm).countP p =
      2 * (vswap.toNat * (seqPermute (2 ^ n)).length) + vbfly.toNat * (2 ^ n * n) +
        2 * (vscale.toNat * if d = .inverse then 2 * 2 ^ n else 0) + 2 * ∑ s ∈ range n, twiddleCount p s d twm := by
  rw [seqCore, List.countP_append, List.countP_append, Nat.mul_add, Nat.mul_add, two_mul_countP_seqStages n d twm hbfly,
    countP_seqPermute n hswap, countP_seqScale _ d hscale]
  ring

/-! ### The twiddle micro-operations -/

theorem twiddleCount_recurrence {vseed vstep : Bool} (s : Nat) (d : Dir) (hseed : p (.twseed s d) = vseed)
    (hstep : p .twstep = vstep) :
    twiddleCount p s d .recurrence + vstep.toNat = vseed.toNat + vstep.toNat * 2 ^ s := by
  obtain ⟨k, hk⟩ : ∃ k, 2 ^ s = k + 1 := ⟨2 ^ s - 1, by have := Nat.two_pow_pos s; omega⟩
  have hfirst : (seqTwiddle s 0 d .recurrence).countP p = vseed.toNat :=
    (countP_of_forall_eq (v := vseed) (by simp [seqTwiddle, hseed])).trans (Nat.mul_one _)
  have hnext : ∀ mi, (seqTwiddle s (mi + 1) d .recurrence).countP p = vstep.toNat := fun mi =>
    (countP_of_forall_eq (v := vstep) (by simp [seqTwiddle, hstep])).trans (Nat.mul_one _)
  rw [twiddleCount, hk, Finset.sum_range_succ']
  simp only [hfirst, hnext, Finset.sum_const, Finset.card_range, smul_eq_mul]
  ring

theorem twiddleCount_table (s : Nat) (d : Dir) (h : ∀ e, p (.twload d e) = v) :
    twiddleCount p s d .table = v.toNat * 2 ^ s := by
  have heach : ∀ mi, (seqTwiddle s mi d .table).countP p = v.toNat := fun mi =>
    (countP_of_forall_eq (v := v) (by simp [seqTwiddle, h])).trans (Nat.mul_one _)
  simp only [twiddleCount, heach, Finset.sum_const, Finset.card_range, smul_eq_mul, Nat.mul_comm]

/-- A predicate on work alone counts no twiddle micro-operation. -/
theorem sum_twiddleCount_eq_zero (n : Nat) (d : Dir) (twm : TwMode) (hseed : ∀ s d, p (.twseed s d) = false)
    (hstep : p .twstep = false) (hload : ∀ d e, p (.twload d e) = false) :
    ∑ s ∈ range n, twiddleCount p s d twm = 0 :=
  Finset.sum_eq_zero fun s _ => by
    cases twm with
    | recurrence => simpa using twiddleCount_recurrence s d (hseed s d) hstep
    | table => simpa using twiddleCount_table s d (hload d)

/-- A predicate on twiddle micro-operations alone counts those of the stages. -/
theorem countP_seqCore_of_twiddle (n : Nat) (d : Dir) (twm : TwMode) (hswap : ∀ a b, p (.swapc a b) = false)
    (hbfly : ∀ k j, p (.bfly k j) = false) (hscale : ∀ i r, p (.scale i r) = false) :
    (seqCore (2 ^ n) d twm).countP p = ∑ s ∈ range n, twiddleCount p s d twm := by
  simpa using two_mul_countP_seqCore n d twm hswap hbfly hscale

/-- The rows below `n` have `2^n - 1` offsets. -/
theorem sum_two_pow_add_one (n : Nat) : (∑ s ∈ range n, 2 ^ s) + 1 = 2 ^ n := by
  have hpos := Nat.two_pow_pos n
  rw [Nat.geomSum_eq (Nat.le_refl 2)]
  omega

/-! ### The counts -/

theorem two_mul_countP_isSwapc (n : Nat) (d : Dir) (twm : TwMode) :
    2 * (seqCore (2 ^ n) d twm).countP MicroOp.isSwapc + 2 ^ ((n + 1) / 2) = 2 ^ n := by
  have h := two_mul_countP_seqCore (p := MicroOp.isSwapc) (vswap := true) (vbfly := false) (vscale := false) n d twm
    (fun _ _ => rfl) (fun _ _ => rfl) fun _ _ => rfl
  rw [sum_twiddleCount_eq_zero n d twm (fun _ _ => rfl) rfl fun _ _ => rfl] at h
  simpa [h] using permuteExchangeCount.1 n

theorem two_mul_countP_isBfly (n : Nat) (d : Dir) (twm : TwMode) :
    2 * (seqCore (2 ^ n) d twm).countP MicroOp.isBfly = 2 ^ n * n := by
  have h := two_mul_countP_seqCore (p := MicroOp.isBfly) (vswap := false) (vbfly := true) (vscale := false) n d twm
    (fun _ _ => rfl) (fun _ _ => rfl) fun _ _ => rfl
  rw [sum_twiddleCount_eq_zero n d twm (fun _ _ => rfl) rfl fun _ _ => rfl] at h
  simpa using h

theorem countP_isScale (n : Nat) (d : Dir) (twm : TwMode) :
    (seqCore (2 ^ n) d twm).countP MicroOp.isScale = if d = .inverse then 2 * 2 ^ n else 0 := by
  have h := two_mul_countP_seqCore (p := MicroOp.isScale) (vswap := false) (vbfly := false) (vscale := true) n d twm
    (fun _ _ => rfl) (fun _ _ => rfl) fun _ _ => rfl
  rw [sum_twiddleCount_eq_zero n d twm (fun _ _ => rfl) rfl fun _ _ => rfl] at h
  simp only [Bool.toNat_true, Bool.toNat_false] at h
  omega

/-- The twiddle counts in recurrence mode: one answer for the seeds, one for the steps. -/
theorem countP_seqCore_recurrence {vseed vstep : Bool} (n : Nat) (d : Dir) (hswap : ∀ a b, p (.swapc a b) = false)
    (hbfly : ∀ k j, p (.bfly k j) = false) (hscale : ∀ i r, p (.scale i r) = false)
    (hseed : ∀ s d, p (.twseed s d) = vseed) (hstep : p .twstep = vstep) :
    (seqCore (2 ^ n) d .recurrence).countP p + vstep.toNat * (n + 1) = vseed.toNat * n + vstep.toNat * 2 ^ n := by
  have hsum : (∑ s ∈ range n, twiddleCount p s d .recurrence) + n * vstep.toNat =
      n * vseed.toNat + vstep.toNat * ∑ s ∈ range n, 2 ^ s := by
    have h := Finset.sum_congr (rfl : range n = range n) fun s _ => twiddleCount_recurrence s d (hseed s d) hstep
    simpa [Finset.sum_add_distrib, ← Finset.mul_sum] using h
  rw [countP_seqCore_of_twiddle n d _ hswap hbfly hscale, ← sum_two_pow_add_one n]
  linarith

theorem countP_seqCore_table (n : Nat) (d : Dir) (hswap : ∀ a b, p (.swapc a b) = false)
    (hbfly : ∀ k j, p (.bfly k j) = false) (hscale : ∀ i r, p (.scale i r) = false)
    (hload : ∀ d e, p (.twload d e) = v) :
    (seqCore (2 ^ n) d .table).countP p + v.toNat = v.toNat * 2 ^ n := by
  rw [countP_seqCore_of_twiddle n d _ hswap hbfly hscale, ← sum_two_pow_add_one n, Nat.mul_add, Nat.mul_one,
    Finset.mul_sum]
  simp only [twiddleCount_table _ d (hload d)]

/-- Settles O18: each kind of micro-operation by the parts of the sequence that hold it. -/
theorem coreMicroOperationCounts : Obligations.CoreMicroOperationCounts := by
  refine ⟨fun n d twm => ⟨two_mul_countP_isSwapc n d twm, two_mul_countP_isBfly n d twm, countP_isScale n d twm⟩,
    fun n d => ⟨?_, ?_, ?_, ?_, ?_, ?_⟩⟩
  · simpa using countP_seqCore_recurrence (p := MicroOp.isTwseed) (vseed := true) (vstep := false) n d
      (fun _ _ => rfl) (fun _ _ => rfl) (fun _ _ => rfl) (fun _ _ => rfl) rfl
  · have h := countP_seqCore_recurrence (p := MicroOp.isTwstep) (vseed := false) (vstep := true) n d
      (fun _ _ => rfl) (fun _ _ => rfl) (fun _ _ => rfl) (fun _ _ => rfl) rfl
    simp only [Bool.toNat_true, Bool.toNat_false] at h
    omega
  · simpa using countP_seqCore_recurrence (p := MicroOp.isTwload) (vseed := false) (vstep := false) n d
      (fun _ _ => rfl) (fun _ _ => rfl) (fun _ _ => rfl) (fun _ _ => rfl) rfl
  · simpa using countP_seqCore_table (p := MicroOp.isTwseed) (v := false) n d (fun _ _ => rfl) (fun _ _ => rfl)
      (fun _ _ => rfl) fun _ _ => rfl
  · simpa using countP_seqCore_table (p := MicroOp.isTwstep) (v := false) n d (fun _ _ => rfl) (fun _ _ => rfl)
      (fun _ _ => rfl) fun _ _ => rfl
  · simpa using countP_seqCore_table (p := MicroOp.isTwload) (v := true) n d (fun _ _ => rfl) (fun _ _ => rfl)
      (fun _ _ => rfl) fun _ _ => rfl

end Sys2Proof.Machine
end

section
/-! PROOFS. The smallest transforms (43_butterfly.md R139, 44_realfft.md R163). -/

namespace Sys2Proof.Machine

variable {s : State}

/-! ### The twiddle factor 1 and the scale 2^0 -/

/-- The products with `WI = +0.0` are zeros, of either sign (40_numerics.md R83). -/
theorem exists_zero_mulNum {x : Word} (hx : isFinite x = true) : ∃ z, mulNum zero64 x = some z ∧ isZero z = true :=
  ⟨_, mulNum_of_zero_left isZero_zero64 hx, isZero_packWord_zero _⟩

/-- Rotating by `W = (1, 0)` gives finite nonzero parts back, sign and all (43_butterfly.md R139). -/
theorem rotate_one {c d : Word} (hc : isFinite c = true) (hc0 : isZero c = false) (hd : isFinite d = true)
    (hd0 : isZero d = false) : Cplx.rotate (some one64, some zero64) (some c, some d) = (some c, some d) := by
  obtain ⟨z, hz, hz0⟩ := exists_zero_mulNum hd
  obtain ⟨z', hz', hz0'⟩ := exists_zero_mulNum hc
  have hcnum := isNaN_of_isFinite hc
  have hdnum := isNaN_of_isFinite hd
  have hre : FpVal.sub (mulNum one64 c) (mulNum zero64 d) = some c := by
    rw [mulNum_one_left hcnum, hz]
    exact addNum_of_zero_right hcnum hc0 ((isZero_fneg z).trans hz0)
  have him : FpVal.add (mulNum zero64 c) (mulNum one64 d) = some d := by
    rw [mulNum_one_left hdnum, hz', FpVal.add_comm]
    exact addNum_of_zero_right hdnum hd0 hz0'
  exact Prod.ext hre him

/-- Multiplying by `2^0` changes no value (40_numerics.md R92). -/
theorem mul_pow2Neg_zero (w : Word) : FpVal.mul (fpVal w) (some (pow2Neg 0)) = fpVal w := by
  rw [FpVal.mul_comm]
  cases hw : isNaN w with
  | true => rw [fpVal_of_nan hw]; rfl
  | false => rw [fpVal_of_num hw]; exact mulNum_one_left hw

theorem signal_scale_zero (i : Nat) (s : State) : (scale i 0 s).signal = s.signal := by
  rw [signal_scale s i (Nat.zero_le 22), State.signal, mul_pow2Neg_zero]
  exact Function.update_eq_self i s.signal

/-! ### The transforms -/

/-- `XFORM 2` forward is one sample: no exchange, no stage, no scaling. -/
theorem exec_xformFR_two (hb : s.busy = false) : ∃ t, exec (.xformFR 2) s = .next t ∧ t.err = 0 ∧ ∀ i, t.D i = s.D i := by
  obtain ⟨pend, hnext⟩ := exec_of_plan (ops := []) hb
    (planOf_xformInstr (d := .forward) (twm := .recurrence) (Nat.zero_le s.cfg.logn) rfl)
  exact ⟨_, hnext, rfl, fun i => rfl⟩

/-- The one stage of `XFORM 4`, whose samples bit reversal leaves where they are. -/
theorem coreSignal_one (tw : Nat → Nat → Cplx) (x : Signal) {p : Nat} (hp : p < 2) :
    coreSignal tw 1 .forward x p = FpVal.add (x p) ((Cplx.rotate (tw 0 0) (x 2, x 3)).part p) ∧
      coreSignal tw 1 .forward x (2 + p) = FpVal.sub (x p) ((Cplx.rotate (tw 0 0) (x 2, x 3)).part p) := by
  obtain rfl | rfl := Nat.le_one_iff_eq_zero_or_eq_one.1 (Nat.le_of_lt_succ hp) <;>
    simp [coreSignal, scaled, stages, stage, permuted, revBits]

theorem exec_xformFR_four (hb : s.busy = false) (hc : isFinite (s.D 2) = true) (hc0 : isZero (s.D 2) = false)
    (hd : isFinite (s.D 3) = true) (hd0 : isZero (s.D 3) = false) :
    ∃ t, exec (.xformFR 4) s = .next t ∧ t.err = 0 ∧
      fpVal (t.D 0) = FpVal.add (fpVal (s.D 0)) (fpVal (s.D 2)) ∧
      fpVal (t.D 1) = FpVal.add (fpVal (s.D 1)) (fpVal (s.D 3)) ∧
      fpVal (t.D 2) = FpVal.sub (fpVal (s.D 0)) (fpVal (s.D 2)) ∧
      fpVal (t.D 3) = FpVal.sub (fpVal (s.D 1)) (fpVal (s.D 3)) := by
  have hlogn := (Config.logn_range s.cfg).1
  obtain ⟨t, hnext, hvalue, -, hframe⟩ := xformComputesTheStageNetwork s 1 .forward .recurrence hb hlogn nofun
  have hrotate : Cplx.rotate (twiddleOf s .forward .recurrence 0 0) (s.signal 2, s.signal 3) =
      (fpVal (s.D 2), fpVal (s.D 3)) := by
    show Cplx.rotate _ (fpVal (s.D 2), fpVal (s.D 3)) = _
    rw [fpVal_of_isFinite hc, fpVal_of_isFinite hd]
    exact rotate_one hc hc0 hd hd0
  obtain ⟨hadd0, hsub0⟩ := coreSignal_one (twiddleOf s .forward .recurrence) s.signal Nat.two_pos
  obtain ⟨hadd1, hsub1⟩ := coreSignal_one (twiddleOf s .forward .recurrence) s.signal Nat.one_lt_two
  rw [hrotate] at hadd0 hadd1 hsub0 hsub1
  exact ⟨t, hnext, by rw [hframe], (hvalue 0 (by decide)).trans hadd0, (hvalue 1 (by decide)).trans hadd1,
    (hvalue 2 (by decide)).trans hsub0, (hvalue 3 (by decide)).trans hsub1⟩

/-- The sequence of `RXFORM 2` is the DC/Nyquist step; the inverse scales by `2^0` after it (44_realfft.md R163). -/
theorem signal_effects_seqReal_two (d : Dir) (s : State) :
    (effects (seqReal (2 * 2 ^ 0) d .recurrence) s).signal = (rdc d (twseed 0 d s)).signal := by
  cases d with
  | forward => rfl
  | inverse => exact (signal_scale_zero 1 _).trans (signal_scale_zero 0 _)

theorem exec_rxform_two (d : Dir) (hb : s.busy = false) :
    ∃ t, exec (rxformInstr d .recurrence 2) s = .next t ∧ t.err = 0 ∧ fpVal (t.D 0) = (edgeResults d s.signal).1 ∧
      fpVal (t.D 1) = (edgeResults d s.signal).2 := by
  obtain ⟨pend, hnext⟩ := exec_of_plan hb
    (planOf_rxformInstr (d := d) (twm := .recurrence) (Nat.zero_le s.cfg.logn) rfl)
  have hsignal := congrFun (signal_effects_seqReal_two d (s.accept (encode (rxformInstr d .recurrence 2)) pend))
  obtain ⟨h0, h1, -⟩ := rdc_spec d (twseed 0 d (s.accept (encode (rxformInstr d .recurrence 2)) pend))
  exact ⟨_, hnext, rfl, (hsignal 0).trans h0, (hsignal 1).trans h1⟩

/-- Settles O29: each transform by its few micro-operations, `XFORM 4` by its one stage. -/
theorem smallestTransforms : Obligations.SmallestTransforms :=
  ⟨fun _ => exec_xformFR_two, fun _ => exec_xformFR_four, fun _ => exec_rxform_two .forward,
    fun _ => exec_rxform_two .inverse⟩

end Sys2Proof.Machine
end

section
/-! PROOFS. RPAIR and the post/pre-processing pass (44_realfft.md R150 to R154) as equations on values: a pair of bins, the
DC/Nyquist bin, and the pass as SEQ performs it, one pair after the other. -/

namespace Sys2Proof.Machine

variable {m n k j i : Nat} {d : Dir} {twm : TwMode} {tw : Nat → Cplx} {x y : Signal} {s t : State}

/-! ### RPAIR and RDC bin by bin -/

/-- Writing both parts of bin `b`: its two words are `2b` and `2b + 1` (10_state.md R21). -/
theorem update_bin (x : Signal) (b : Nat) (z : Cplx) (i : Nat) :
    Function.update (Function.update x (2 * b) z.1) (2 * b + 1) z.2 i = if i / 2 = b then z.part i else x i := by
  by_cases hi : i / 2 = b
  · obtain rfl | rfl : i = 2 * b ∨ i = 2 * b + 1 := by omega
    · simp [hi, Cplx.part]
    · simp [hi, Cplx.part]
  · rw [if_neg hi, Function.update_of_ne (by omega), Function.update_of_ne (by omega)]

/-- RPAIR writes the two bins of its pair (44_realfft.md R150, R151). -/
theorem signal_rpair (s : State) (j : Nat) (d : Dir) (hn : n % 2 = 0) (i : Nat) :
    (rpair j d n s).signal i =
      if i / 2 = n / 2 - j then (pairResults (fpPair (s.wr, s.wi)) d n j s.signal).2.part i
      else if i / 2 = j then (pairResults (fpPair (s.wr, s.wi)) d n j s.signal).1.part i
      else s.signal i := by
  have hhalf : fpVal half64 = some half64 := fpVal_of_isFinite rfl
  have hneg : fpVal negHalf64 = some negHalf64 := fpVal_of_isFinite rfl
  have hhigh : n - 2 * j = 2 * (n / 2 - j) := by omega
  rw [← update_bin s.signal j, ← update_bin _ (n / 2 - j), ← hhigh]
  cases d <;>
    simp only [rpair, signal_useDraws, signal_setD, fpVal_fadd, fpVal_fsub, fpVal_fmul, hhalf, hneg] <;> rfl

theorem signal_rdc_apply (d : Dir) (s : State) (i : Nat) :
    (rdc d s).signal i = if i / 2 = 0 then (edgeResults d s.signal).part i else s.signal i := by
  rw [signal_rdc]
  exact update_bin s.signal 0 _ i

/-- Settles O15: the two bins read off the pair's values; no other word is named. -/
theorem rpairComputesThePair : Obligations.RpairComputesThePair := by
  intro s j n d hj hjn hn hwords
  have hrange : (MicroOp.rpair j d n).inRange s.cfg = true := by
    simp only [MicroOp.inRange, Bool.and_eq_true, decide_eq_true_eq]
    omega
  have hlow : ∀ a, a / 2 = j →
      (rpair j d n s).signal a = (pairResults (fpPair (s.wr, s.wi)) d n j s.signal).1.part a := fun a ha => by
    rw [signal_rpair s j d hn, if_neg (by omega), if_pos ha]
  have hhigh : ∀ a, a / 2 = n / 2 - j →
      (rpair j d n s).signal a = (pairResults (fpPair (s.wr, s.wi)) d n j s.signal).2.part a := fun a ha => by
    rw [signal_rpair s j d hn, if_pos ha]
  refine ⟨rpair j d n s, by rw [perform_eq, if_pos hrange]; rfl, ⟨?_, ?_, ?_, ?_⟩, fun i hi hi' => ?_, rfl⟩
  · exact (hlow _ (by omega)).trans (if_pos (by omega))
  · exact (hlow _ (by omega)).trans (if_neg (by omega))
  · exact (hhigh _ (by omega)).trans (if_pos (by omega))
  · exact (hhigh _ (by omega)).trans (if_neg (by omega))
  · refine D_applyOp_of_not_mem_words (op := .rpair j d n) ?_ s
    simp only [MicroOp.words, List.mem_cons, List.not_mem_nil, or_false]
    omega

/-! ### The pass's equations bin by bin -/

theorem postSignal_edge (tw : Nat → Cplx) (n : Nat) (d : Dir) (x : Signal) (hi : i / 2 = 0) :
    postSignal tw n d x i = (edgeResults d x).part i := by simp only [postSignal, hi, if_true]

theorem postSignal_low (tw : Nat → Cplx) (d : Dir) (x : Signal) (hj : 1 ≤ j) (hjn : 4 * j < n) (hi : i / 2 = j) :
    postSignal tw n d x i = (pairResults (tw j) d n j x).1.part i := by
  simp only [postSignal, hi]
  rw [if_neg (by omega), if_pos hjn]

theorem postSignal_middle (tw : Nat → Cplx) (d : Dir) (x : Signal) (h0 : i / 2 ≠ 0) (hi : 4 * (i / 2) = n) :
    postSignal tw n d x i = x i := by
  simp only [postSignal]
  rw [if_neg h0, if_neg (by omega), if_pos hi]

theorem postSignal_high (tw : Nat → Cplx) (d : Dir) (x : Signal) (hjn : 4 * j < n) (hn : n % 2 = 0)
    (hi : i / 2 = n / 2 - j) : postSignal tw n d x i = (pairResults (tw j) d n j x).2.part i := by
  have hpartner : n / 2 - i / 2 = j := by omega
  simp only [postSignal, hpartner]
  rw [if_neg (by omega), if_neg (by omega), if_neg (by omega)]

/-- A pair reads its two bins alone. -/
theorem pairResults_congr (w : Cplx) (d : Dir) (hn : n % 2 = 0) (h : ∀ a, a / 2 = j ∨ a / 2 = n / 2 - j → x a = y a) :
    pairResults w d n j x = pairResults w d n j y := by
  unfold pairResults
  rw [h (2 * j) (by omega), h (2 * j + 1) (by omega), h (n - 2 * j) (by omega), h (n - 2 * j + 1) (by omega)]

theorem edgeResults_congr (d : Dir) (h : ∀ a, a / 2 = 0 → x a = y a) : edgeResults d x = edgeResults d y := by
  unfold edgeResults
  rw [h 0 rfl, h 1 rfl]

/-! ### Pair after pair -/

/-- The bin of word `i` belongs to one of the pairs `1 .. k` (44_realfft.md R151). -/
def InPairs (n k i : Nat) : Prop := (1 ≤ i / 2 ∧ i / 2 ≤ k) ∨ (n / 2 - k ≤ i / 2 ∧ i / 2 < n / 2)

/-- `y` is the signal `x` of `n` words after the pairs `1 .. k`: their words are the pass's, the others are as before. -/
structure PairsUpTo (tw : Nat → Cplx) (n : Nat) (d : Dir) (k : Nat) (x y : Signal) : Prop where
  done : ∀ i, InPairs n k i → y i = postSignal tw n d x i
  rest : ∀ i < n, ¬ InPairs n k i → y i = x i

theorem pairsUpTo_zero (tw : Nat → Cplx) (d : Dir) (h : ∀ i < n, y i = x i) : PairsUpTo tw n d 0 x y where
  done i hi := by simp only [InPairs] at hi; omega
  rest i hi _ := h i hi

/-- The next pair's words are still the old ones, so RPAIR makes the pass's of them (44_realfft.md R151). -/
theorem PairsUpTo.rpair (h : PairsUpTo tw n d k x s.signal) (hk : 4 * (k + 1) < n) (hn : n % 2 = 0)
    (hw : fpPair (s.wr, s.wi) = tw (k + 1)) : PairsUpTo tw n d (k + 1) x (rpair (k + 1) d n s).signal := by
  have hold : pairResults (fpPair (s.wr, s.wi)) d n (k + 1) s.signal = pairResults (tw (k + 1)) d n (k + 1) x := by
    rw [hw]
    exact pairResults_congr _ d hn fun a ha => h.rest a (by omega) (by unfold InPairs; omega)
  constructor <;> intro i hi <;> rw [signal_rpair s _ d hn, hold]
  · split_ifs with hhigh hlow
    · exact (postSignal_high tw d x hk hn hhigh).symm
    · exact (postSignal_low tw d x (Nat.le_add_left 1 k) hk hlow).symm
    · exact h.done i (by unfold InPairs at hi ⊢; omega)
  · intro hout
    unfold InPairs at hout
    rw [if_neg (by omega), if_neg (by omega)]
    exact h.rest i hi (by unfold InPairs; omega)

/-- After the last pair only bin 0 and, unchanged, the middle bin `n/4` are left (44_realfft.md R154, R160). -/
theorem PairsUpTo.rdc (h : PairsUpTo tw n d (n / 4 - 1) x s.signal) (hn : n = 2 ∨ n % 4 = 0) (hi : i < n) :
    (rdc d s).signal i = postSignal tw n d x i := by
  rw [signal_rdc_apply]
  by_cases h0 : i / 2 = 0
  · rw [if_pos h0, postSignal_edge tw n d x h0]
    exact congrArg (Cplx.part · i) (edgeResults_congr d fun a ha => h.rest a (by omega) (by unfold InPairs; omega))
  · rw [if_neg h0]
    by_cases hmiddle : 4 * (i / 2) = n
    · rw [postSignal_middle tw d x h0 hmiddle]
      exact h.rest i hi (by unfold InPairs; omega)
    · exact h.done i (by unfold InPairs; omega)

/-! ### The pass -/

/-- The twiddle of a pair is that of its offset in row `log2(N/2)` (44_realfft.md R154). -/
theorem seqPairTwiddle_eq (m g : Nat) (d : Dir) (twm : TwMode) :
    [seqPairTwiddle (2 * 2 ^ m) (g + 1) d twm] = seqTwiddle m (g + 1) d twm := by
  have hhalf : 2 * 2 ^ m / 2 = 2 ^ m := by omega
  cases twm with
  | recurrence => rfl
  | table => rw [seqPairTwiddle, hhalf]; rfl

/-- `t` comes from `s` by the seed of the pass and its pairs `1 .. k`. -/
structure PairsDone (m : Nat) (d : Dir) (twm : TwMode) (x : Signal) (k : Nat) (s t : State) : Prop where
  upTo : PairsUpTo (twiddleOf s d twm m) (2 * 2 ^ m) d k x t.signal
  generator : GeneratorAt m d twm (k + 1) t
  tables : ∀ d' e, t.T d' e = s.T d' e

/-- The seed is offset 0 of the row, which no pair uses (44_realfft.md R154). -/
theorem pairsDone_seed (d : Dir) (twm : TwMode) (h : AgreeOn m s.signal x) :
    PairsDone m d twm x 0 s (effects (seqRpostSeed (2 * 2 ^ m) d twm) s) := by
  have hhalf : 2 * 2 ^ m / 2 = 2 ^ m := by omega
  cases twm with
  | recurrence =>
    rw [seqRpostSeed, hhalf, log2_two_pow]
    refine ⟨pairsUpTo_zero _ d h, fun _ mi hmi => ?_, fun d' e => State.T_congr rfl rfl rfl d' e⟩
    obtain rfl : 0 = mi := by omega
    exact atOffset_twseed m d s
  | table => exact ⟨pairsUpTo_zero _ d h, nofun, fun _ _ => rfl⟩

theorem PairsDone.pair (h : PairsDone m d twm x k s t) (hk : 4 * (k + 1) < 2 * 2 ^ m) :
    PairsDone m d twm x (k + 1) s
      (effects [seqPairTwiddle (2 * 2 ^ m) (k + 1) d twm, .rpair (k + 1) d (2 * 2 ^ m)] t) := by
  obtain ⟨hw, hgenerator, hT⟩ := h.generator.seqTwiddle
  have hsignal := signal_effects_of_words_nil (ops := seqTwiddle m (k + 1) d twm) (fun _ => words_of_mem_seqTwiddle) t
  have hrpair : ∀ op ∈ [MicroOp.rpair (k + 1) d (2 * 2 ^ m)], op.words ≠ [] := by simp [MicroOp.words]
  rw [twiddleOf_congr h.tables] at hw
  rw [← List.singleton_append, seqPairTwiddle_eq, effects_append]
  refine ⟨(hsignal ▸ h.upTo).rpair hk (Nat.mul_mod_right 2 _) hw, hgenerator.onWords hrpair, fun d' e => ?_⟩
  rw [T_effects_of_words hrpair, hT, h.tables]

/-- The post/pre-processor computes the pass's equations on a signal of `N = 2 * 2^m` words, whatever stands beyond it
(44_realfft.md R154). -/
theorem agreeOn_seqRpost (d : Dir) (twm : TwMode) (h : AgreeOn m s.signal x) :
    AgreeOn m (effects (seqRpost (2 * 2 ^ m) d twm) s).signal
      (postSignal (twiddleOf s d twm m) (2 * 2 ^ m) d x) := fun i hi => by
  have hpairs : ∀ k ≤ 2 * 2 ^ m / 4 - 1, PairsDone m d twm x k s
      (effects (seqRpostSeed (2 * 2 ^ m) d twm ++ (List.range k).flatMap fun g =>
        [seqPairTwiddle (2 * 2 ^ m) (g + 1) d twm, .rpair (g + 1) d (2 * 2 ^ m)]) s) := by
    intro k hk
    induction k with
    | zero =>
      rw [List.range_zero, List.flatMap_nil, List.append_nil]
      exact pairsDone_seed d twm h
    | succ k ih =>
      rw [List.range_succ, List.flatMap_append, List.flatMap_singleton, ← List.append_assoc, effects_append]
      exact (ih (by omega)).pair (by omega)
  have hlen : 2 * 2 ^ m = 2 ∨ 2 * 2 ^ m % 4 = 0 := by
    cases m with
    | zero => exact .inl rfl
    | succ m => right; omega
  rw [seqRpost, effects_append]
  exact (hpairs _ (Nat.le_refl _)).upTo.rdc hlen hi

end Sys2Proof.Machine
end

section
/-! PROOFS. RXFORM (44_realfft.md R157, R158): the core and the post/pre-processor one after the other, and the four
commands. -/

namespace Sys2Proof.Machine

variable {m : Nat} {x : Signal} {s : State}

/-- Work on the signal leaves every table entry, and so the twiddle factors (42_twiddle.md R125). -/
theorem twiddleOf_effects_of_isSignalWork {c : Config} {ops : List MicroOp}
    (h : ∀ op ∈ ops, op.isSignalWork c = true) (s : State) (d : Dir) (twm : TwMode) :
    twiddleOf (effects ops s) d twm = twiddleOf s d twm := by
  obtain ⟨hforward, hinverse, -⟩ := effects_tables h s
  exact twiddleOf_congr (State.T_congr hforward hinverse (effects_frame ops s).2.1)

/-- The phases of RXFORM compute the equations of the real transform: the second phase finds the signal that the first
leaves, and the tables as the first found them. -/
theorem agreeOn_seqReal {c : Config} (d : Dir) (twm : TwMode) (hm : m ≤ c.logn) (h : AgreeOn m s.signal x) :
    AgreeOn m (effects (seqReal (2 * 2 ^ m) d twm) s).signal (realSignal (twiddleOf s d twm) m d x) := by
  have hhalf : 2 * 2 ^ m / 2 = 2 ^ m := by omega
  have hm22 : m ≤ 22 := hm.trans (Config.logn_range c).2
  cases d <;> rw [seqReal, hhalf, effects_append, realSignal, Nat.pow_succ']
  case forward =>
    have hpost := agreeOn_seqRpost .forward twm (agreeOn_seqCore .forward twm hm22 h)
    rwa [twiddleOf_effects_of_isSignalWork fun _ => isSignalWork_of_mem_seqCore hm] at hpost
  case inverse =>
    have hcore := agreeOn_seqCore .inverse twm hm22 (agreeOn_seqRpost .inverse twm h)
    rwa [twiddleOf_effects_of_isSignalWork fun _ => isSignalWork_of_mem_seqRpost hm] at hcore

/-- Settles O27: the real transform's equations on the signal, the words that the sequence does not name, and the fields
that no work on the signal writes. -/
theorem rxformComputesTheRealTransform : Obligations.RxformComputesTheRealTransform := by
  intro s m d twm hb hm htag
  rw [Nat.pow_succ'] at htag ⊢
  have hwork : ∀ op ∈ seqReal (2 * 2 ^ m) d twm, op.isSignalWork s.cfg = true := fun op => isSignalWork_of_mem_seqReal hm
  obtain ⟨pend, hnext⟩ := exec_of_plan hb (planOf_rxformInstr (d := d) hm (tableOk_of_tag htag))
  refine ⟨_, hnext, ?_, fun i hi => D_effects_of_wordsBelow ((IsSignalSeq.real d twm).wordsBelow hm) hi _, ?_⟩
  · exact agreeOn_seqReal (s := s.accept _ pend) d twm hm fun _ _ => rfl
  · obtain ⟨_, _, _, _, _, _, heq⟩ := effects_frame_of_isSignalWork hwork (s.accept (encode (rxformInstr d twm _)) pend)
    rw [heq]
    rfl

end Sys2Proof.Machine
end

section
/-! PROOFS. The step by its turns, and the sequencer's turns put together (45_command_control.md R170 to R181): acceptance
and the micro-operations one by one lead where the big step leads. -/

namespace Sys2Proof.Machine

/-! ### One step for each event -/

variable {s t : State} {rest : List Event}

/-- A called word runs as the big step of its plan (45_command_control.md R176). -/
theorem step_call {w : Reg32} (h : s.inbox = .call w :: rest) :
    step s = command w (planWord s.cfg s.tag w) (s.setInbox rest) := by
  unfold step planWord
  rw [fetch_cons h, Event.turn, callTurn]
  cases hdecode : decode w with
  | ok i =>
    obtain ⟨hword, -⟩ := decodeThenEncodeIsIdentity w i hdecode
    exact (exec_eq i _).trans (by rw [hword]; rfl)
  | error e => rfl

/-- A called word that decodes to a command runs as that command. -/
theorem step_call_of_decode {w : Reg32} {i : Instr} (h : s.inbox = .call w :: rest) (hdecode : decode w = .ok i) :
    step s = exec i (s.setInbox rest) := by
  unfold step
  rw [fetch_cons h, Event.turn, callTurn, hdecode]

theorem step_host {x : Txn} (h : s.inbox = .host x :: rest) : step s = .next (hostTurn x (s.setInbox rest)) := by
  unfold step
  rw [fetch_cons h, Event.turn]

theorem step_reset (h : s.inbox = .reset :: rest) : step s = .next (s.setInbox rest).resetNow := by
  unfold step
  rw [fetch_cons h, Event.turn]

theorem step_seq (h : s.inbox = .seq :: rest) : step s = toOutcome (seqStep (s.setInbox rest)) := by
  unfold step
  rw [fetch_cons h, Event.turn]

/-- With no event ahead SEQ has its turn; while `BUSY = 0` that turn does nothing (20_memory.md R51). -/
theorem step_nil (h : s.inbox = []) : step s = toOutcome (seqStep s) := by
  unfold step
  rw [fetch_nil h]
  cases hb : s.busy with
  | false => simp [seqStep_idle hb, toOutcome]
  | true => rfl

/-- A turn of SEQ takes the head off PEND and performs it (45_command_control.md R177). -/
theorem seqStep_of_inRange {op : MicroOp} {ops : List MicroOp} (hb : s.busy = true) (hp : s.pend = op :: ops)
    (hr : op.inRange s.cfg = true) : seqStep s = .ok (applyOp op (s.setPend ops)) :=
  (seqStep_cons hb hp).trans (if_pos hr)

/-- Settles O43: each event by its own equation of `step`. -/
theorem stepTakesTheNextTurn : Obligations.StepTakesTheNextTurn := by
  refine ⟨fun s x rest => step_host, fun s w rest => step_call, fun s rest => step_reset, ?_, fun s code => rfl, ?_, ?_⟩
  · intro s op ops rest hb hp hr
    refine ⟨fun h => ?_, fun h => ?_⟩
    · rw [step_seq h, seqStep_of_inRange (s := s.setInbox rest) hb hp hr]
      rfl
    · rw [step_nil h, seqStep_of_inRange hb hp hr]
      rfl
  · intro s rest hb h
    rw [step_seq h, seqStep_idle (s := s.setInbox rest) hb]
    rfl
  · intro s hb h
    rw [step_nil h, seqStep_idle hb]
    rfl

theorem decode_of_decodeTableWord {nbits w : Nat} {i : Instr} (h : decodeTableWord nbits w = some i) :
    decode (BitVec.ofNat 32 (w % 2 ^ nbits)) = .ok i := by
  unfold decodeTableWord at h
  cases hdecode : decode (BitVec.ofNat 32 (w % 2 ^ nbits)) with
  | ok j =>
    rw [hdecode] at h
    exact congrArg Except.ok (Option.some.inj h)
  | error e =>
    rw [hdecode] at h
    nomatch h

/-- Settles O46: the called word and the placed one are both at the head of the inbox. -/
theorem stepRunsTheDecodedCommand : Obligations.StepRunsTheDecodedCommand :=
  ⟨fun _ _ _ _ => step_call_of_decode,
    fun s w _ h => step_call_of_decode (s := s.withFetchWord 32 w) rfl (decode_of_decodeTableWord h)⟩

/-! ### Acceptance, refusal, and the commands that perform nothing -/

/-- Settles O42: the port allows a write of CMD while `BUSY = 0`. -/
theorem acceptanceLatchesAnyWord : Obligations.AcceptanceLatchesAnyWord :=
  fun _ _ hb => hostTurn_writeCsr ⟨rfl, hb⟩

/-- Settles O33: the port refuses the write, and so does the big step. -/
theorem commandWhileBusyIsRefused : Obligations.CommandWhileBusyIsRefused := by
  refine ⟨fun s w hb => hostTurn_of_not_allows fun hallow => ?_, fun s i hb => ?_⟩
  · obtain ⟨-, hidle⟩ := hallow
    simp [hb] at hidle
  · rw [exec_eq, command_busy hb]
    rfl

/-- Settles O21: an illegal word's plan is a failing one. -/
theorem illegalWordCompletesWithThree : Obligations.IllegalWordCompletesWithThree := by
  intro s w e rest hb hin hdecode
  have hplan : planWord s.cfg s.tag w = Plan.fail .illegalCommand := by simp [planWord, hdecode, planIllegal]
  rw [step_call hin, hplan, command_fail (s := s.setInbox rest) hb]
  rfl

/-- Settles O20: NOP's plan is its FINISH alone; the illegal words are those of `decode_error_iff`. -/
theorem nopOnlyReports : Obligations.NopOnlyReports := by
  refine ⟨rfl, rfl, fun _ _ => rfl, fun s hb => ?_, fun s t hb h => ?_, fun w hopc hw => ?_⟩
  · obtain ⟨pend, hnext⟩ := exec_of_plan (i := .nop) hb rfl
    exact ⟨_, hnext, rfl⟩
  · obtain ⟨pend, hnext⟩ := exec_of_plan (i := .nop) hb rfl
    obtain rfl := Host.Outcome.next.inj (hnext.symm.trans h)
    exact statusWord_complete_ok _
  · have hnum : w.toNat ≠ 0 := fun h => hw (BitVec.eq_of_toNat_eq h)
    rw [opcField_eq] at hopc
    rw [decode_error_iff, rsvField_eq, opcField_eq, dirField_eq, twmField_eq, lenOf_eq, beq_iff_eq, beq_iff_eq]
    omega

/-! ### The expansion of a word -/

theorem IsPlan.ops_eq_nil {c : Config} {tag : TableTag} {p : Plan} (h : IsPlan c tag p) (hcode : p.code ≠ .ok) :
    p.ops = [] := by
  obtain rfl | ⟨i, rfl⟩ := h
  · rfl
  · exact planOf_ops_of_code_ne_ok hcode

/-- Settles O19: `expand(w)` is the plan's work and its FINISH. -/
theorem expansionIsInRangeAndFinishes : Obligations.ExpansionIsInRangeAndFinishes := fun c tag w =>
  have hplan := isPlan_planWord c tag w
  ⟨_, _, rfl, fun _ hop => hplan.isWork hop, hplan.ops_eq_nil⟩

/-! ### The turns of a running command -/

/-- PEND is no source and no target of a micro-operation (45_command_control.md R177). -/
theorem applyOp_setPend (op : MicroOp) (s : State) (ops : List MicroOp) :
    applyOp op (s.setPend ops) = (applyOp op s).setPend ops := by
  cases op with
  | twstore d e | rdc d => cases d <;> rfl
  | _ => rfl

theorem run_succ {M : Host.Core} {s t : M.State} (h : M.step s = .next t) (k : Nat) : M.run (k + 1) s = M.run k t := by
  simp [Host.Core.run, h]

theorem run_succ_of_step (h : step s = .next t) (k : Nat) :
    Host.Core.run Sys2Proof.core (k + 1) s = Host.Core.run Sys2Proof.core k t :=
  run_succ (M := Sys2Proof.core) (s := s) (t := t) h k

/-- With no event ahead a running command performs the head of PEND. -/
theorem step_setPend_cons {op : MicroOp} (ops : List MicroOp) (hb : s.busy = true) (hin : s.inbox = [])
    (hr : op.inRange s.cfg = true) : step (s.setPend (op :: ops)) = .next ((applyOp op s).setPend ops) := by
  rw [step_nil (s := s.setPend (op :: ops)) hin, seqStep_of_inRange (s := s.setPend (op :: ops)) hb rfl hr,
    ← applyOp_setPend]
  rfl

/-- With no event ahead a running command's work is performed in as many steps as it is long, and one more step is its
FINISH: by induction on the work. -/
theorem run_pending {work : List MicroOp} (code : ErrCode) (hb : s.busy = true) (hin : s.inbox = [])
    (hwork : ∀ op ∈ work, op.isWork s.cfg = true) :
    Host.Core.run Sys2Proof.core (work.length + 1) (s.setPend (work ++ [.finish code])) =
      .next (((effects work s).complete code).setPend []) := by
  induction work generalizing s with
  | nil => exact run_succ_of_step (step_setPend_cons [] hb hin rfl) 0
  | cons op work ih =>
    obtain ⟨hop, hrest⟩ := List.forall_mem_cons.1 hwork
    have hbusy : (applyOp op s).busy = true := (applyOp_status hop s).1.trans hb
    have hstep := step_setPend_cons (work ++ [.finish code]) hb hin (MicroOp.inRange_of_isWork hop)
    rw [List.length_cons, List.cons_append, run_succ_of_step hstep]
    exact ih hbusy (by simpa using hin) (by simpa using hrest)

/-- Settles O45: PEND is work and its FINISH, and no micro-operation writes CMD. -/
theorem runningCommandCompletes : Obligations.RunningCommandCompletes := by
  intro s hs hb hin
  obtain ⟨work, code, hpend, hwork⟩ := hs.busyPend hb
  have hlen : s.pend.length = work.length + 1 := by simp [hpend]
  have hself : s.setPend (work ++ [.finish code]) = s := by rw [← hpend]; rfl
  have hrun := run_pending code hb hin hwork
  rw [hself, ← hlen] at hrun
  obtain ⟨-, -, hcmd, -⟩ := effects_frame work s
  exact ⟨_, hrun, rfl, rfl, rfl, hcmd⟩

/-- The turns that follow acceptance give the big step's outcome (45_command_control.md R176). -/
theorem run_accept {w : Reg32} {p : Plan} (hb : s.busy = false) (hin : s.inbox = [])
    (hwork : ∀ op ∈ p.ops, op.isWork s.cfg = true) :
    Host.Core.run Sys2Proof.core p.expand.length (s.accept w p.expand) = command w p s := by
  rw [command_idle hb fun op hop => MicroOp.inRange_of_isWork (hwork op hop), Plan.expand, List.length_append]
  exact run_pending (s := s.accept w p.expand) p.code rfl hin hwork

/-- Settles O44: the CMD write is acceptance, and the turns that follow it are as many as `expand(w)` is long. -/
theorem bigStepIsTheSmallSteps : Obligations.BigStepIsTheSmallSteps := by
  intro s t w hb h
  have haccept : step { s with inbox := [.host (.writeCsr 0 w)] } =
      .next ((s.setInbox []).accept w (expand s.cfg s.tag w)) :=
    (step_host rfl).trans (congrArg Host.Outcome.next (hostTurn_writeCsr ⟨rfl, hb⟩))
  have hbig : command w (planWord s.cfg s.tag w) (s.setInbox []) = .next t :=
    (step_call (s := { s with inbox := [.call w] }) rfl).symm.trans h
  rw [Nat.add_comm, run_succ_of_step haccept]
  exact (run_accept (s := s.setInbox []) hb rfl fun _ => (isPlan_planWord s.cfg s.tag w).isWork).trans hbig

end Sys2Proof.Machine
end

section
/-! PROOFS. The report of a command (60_exceptions.md R190 to R197): its plan's code is the first check that fails, and a
failing command leaves a state that differs in CMD and STATUS alone. -/

namespace Sys2Proof.Machine

variable {s : State} {i : Instr} {c : Config} {tag : TableTag}

/-! ### Which code a command reports -/

/-- What each command checks: its length, then its table (45_command_control.md R171, R172). -/
theorem code_planOf (c : Config) (tag : TableTag) (i : Instr) :
    (planOf c tag i).code =
      if lengthAdmitted c i = false then .invalidLength
      else if tableAdmitted tag i = false then .uninitializedTable
      else .ok := by
  cases i with
  | nop => rfl
  | init size =>
    rw [planOf, planInit, lengthAdmitted]
    cases sizeOk c size <;> rfl
  | permute len =>
    rw [planOf, planPermute, lengthAdmitted]
    cases lenOk c len <;> rfl
  | xformFR len | xformIR len =>
    rw [planOf, planXform, lengthAdmitted]
    cases lenOk c len <;> rfl
  | rxformFR len | rxformIR len =>
    rw [planOf, planRxform, lengthAdmitted]
    cases lenOk c len <;> rfl
  | xformFT len | xformIT len =>
    rw [planOf, planXform, lengthAdmitted, tableAdmitted, tableOk]
    cases lenOk c len <;> cases tag.valid && tag.size == len / 2 <;> rfl
  | rxformFT len | rxformIT len =>
    rw [planOf, planRxform, lengthAdmitted, tableAdmitted, tableOk]
    cases lenOk c len <;> cases tag.valid && tag.size == len <;> rfl

theorem code_planOf_of_length (h : lengthAdmitted c i = false) : (planOf c tag i).code = .invalidLength := by
  rw [code_planOf, if_pos h]

theorem code_planOf_of_table (hlen : lengthAdmitted c i = true) (h : tableAdmitted tag i = false) :
    (planOf c tag i).code = .uninitializedTable := by
  rw [code_planOf, if_neg (by simp [hlen]), if_pos h]

/-- The plan of a word carries the code of the first condition the word meets (60_exceptions.md R196). -/
theorem code_planWord (c : Config) (tag : TableTag) (w : Reg32) : (planWord c tag w).code = reportCode c tag w := by
  rw [planWord, reportCode]
  cases decode w with
  | ok i => exact code_planOf c tag i
  | error e => rfl

/-! ### What a failing command changes -/

/-- A command that reports an error changes nothing but CMD and STATUS (60_exceptions.md R194, R197). -/
theorem command_of_code_ne_ok (w : Reg32) {p : Plan} (hb : s.busy = false) (hp : IsPlan s.cfg s.tag p)
    (hcode : p.code ≠ .ok) :
    command w p s =
      .next { s with cmd := w, busy := false, done := true, err := p.code.bits, pend := [], resp := some .ok } := by
  have hops := hp.ops_eq_nil hcode
  rw [command_idle hb (by simp [hops]), hops]
  rfl

theorem exec_of_code {code : ErrCode} (hb : s.busy = false) (hcode : (planOf s.cfg s.tag i).code = code)
    (hne : code ≠ .ok) :
    exec i s =
      .next { s with cmd := encode i, busy := false, done := true, err := code.bits, pend := [], resp := some .ok } := by
  subst hcode
  rw [exec_eq, command_of_code_ne_ok _ hb (.inr ⟨i, rfl⟩) hne]

/-! ### The lengths and sizes that are not admitted -/

theorem lenOk_eq_false_iff {len : Nat} :
    lenOk c len = false ↔ len % 2 = 1 ∨ (¬ ∃ k, len / 2 = 2 ^ k) ∨ c.dmemWords < len := by
  rw [← Bool.not_eq_true, lenOk, Bool.and_eq_true, Bool.and_eq_true, beq_iff_eq, pow2_iff, decide_eq_true_eq,
    not_and_or, not_and_or, or_assoc, not_le, Nat.mod_two_not_eq_zero]

theorem sizeOk_eq_false_iff {size : Nat} :
    sizeOk c size = false ↔ (¬ ∃ k, size = 2 ^ k) ∨ 2 * c.nmax < size := by
  rw [← Bool.not_eq_true, sizeOk, Bool.and_eq_true, pow2_iff, decide_eq_true_eq, not_and_or, not_le]

theorem zero_ne_two_pow : ¬ ∃ k, 0 = 2 ^ k := fun ⟨k, h⟩ => (Nat.two_pow_pos k).ne h

/-- Settles O30: a length or size that is not admitted fails the first check of its command. -/
theorem badLengthReportsOne : Obligations.BadLengthReportsOne := by
  refine ⟨fun s len i hb hbad hi => ?_, fun s size hb hbad => ?_⟩
  · have hlen : lenOk s.cfg len = false := by
      obtain hodd | rfl | hrest := hbad
      · exact lenOk_eq_false_iff.2 (.inl hodd)
      · exact lenOk_eq_false_iff.2 (.inr (.inl zero_ne_two_pow))
      · exact lenOk_eq_false_iff.2 (.inr hrest)
    have hadmitted : lengthAdmitted s.cfg i = false := by
      obtain rfl | rfl | rfl | rfl | rfl | rfl | rfl | rfl | rfl := hi <;> exact hlen
    exact exec_of_code hb (code_planOf_of_length hadmitted) nofun
  · have hsize : sizeOk s.cfg size = false := by
      obtain rfl | hrest := hbad
      · exact sizeOk_eq_false_iff.2 (.inl zero_ne_two_pow)
      · exact sizeOk_eq_false_iff.2 hrest
    exact exec_of_code hb (code_planOf_of_length (i := .init size) hsize) nofun

/-! ### The tables that are missing -/

theorem tag_admits_eq_false {n : Nat} (h : s.tblValid = false ∨ s.tblSize.toNat ≠ n) :
    (s.tag.valid && s.tag.size == n) = false := by
  rw [Bool.and_eq_false_iff, beq_eq_false_iff_ne]
  exact h

/-- Settles O31: the length is admitted, so the check that fails is that of the table. -/
theorem missingTableReportsTwo : Obligations.MissingTableReportsTwo := by
  refine ⟨fun s n d hb hn htable => ?_, fun s m d hb hm htable => ?_⟩
  · have hlen : lenOk s.cfg (2 * 2 ^ n) = true := lenOk_iff.2 ⟨n, hn, rfl⟩
    have htag : (s.tag.valid && s.tag.size == 2 * 2 ^ n / 2) = false := by
      rw [Nat.mul_div_cancel_left _ Nat.two_pos]
      exact tag_admits_eq_false htable
    exact exec_of_code hb (code_planOf_of_table (by cases d <;> exact hlen) (by cases d <;> exact htag)) nofun
  · have hlen : lenOk s.cfg (2 ^ (m + 1)) = true := lenOk_iff.2 ⟨m, hm, Nat.pow_succ'⟩
    have htag := tag_admits_eq_false htable
    exact exec_of_code hb (code_planOf_of_table (by cases d <;> exact hlen) (by cases d <;> exact htag)) nofun

/-! ### Every word reports exactly one code -/

/-- Any word called while `BUSY = 0` completes with its plan's code (45_command_control.md R175, R178). -/
theorem exists_command_completes (w : Reg32) {p : Plan} (hb : s.busy = false) (hp : IsPlan s.cfg s.tag p) :
    ∃ t, command w p s = .next t ∧ t.err = p.code.bits ∧ t.done = true ∧ t.busy = false ∧ t.cmd = w := by
  obtain ⟨-, -, hcmd, -⟩ := effects_frame p.ops (s.accept w p.expand)
  exact ⟨_, command_idle hb fun op hop => MicroOp.inRange_of_isWork (hp.isWork hop), rfl, rfl, rfl, hcmd⟩

/-- Settles O32: the plan's code is the first condition met, and a plan with an error code performs nothing. The rule's
examples are `XFORM.F.T 6`, and the same word with a reserved bit set. -/
theorem firstFailingCheckIsReported : Obligations.FirstFailingCheckIsReported := by
  refine ⟨fun s w hb => ?_, fun c tag _ => ⟨rfl, rfl⟩, fun s t e h => by rw [hostTurn_refused h, State.respond_err]⟩
  have hplan := isPlan_planWord s.cfg s.tag w
  obtain ⟨t, hnext, herr, hdone, hbusy, hcmd⟩ := exists_command_completes w hb hplan
  have hcode := code_planWord s.cfg s.tag w
  refine ⟨t, hnext, hcode ▸ herr, hdone, hbusy, hcmd, fun hne => ?_⟩
  rw [herr]
  exact Host.Outcome.next.inj (hnext.symm.trans (command_of_code_ne_ok w hb hplan (hcode ▸ hne)))

end Sys2Proof.Machine
end

section
/-! PROOFS. Access while a command runs (70_reset_and_hazards.md R216), and reset in any state (R211). -/

namespace Sys2Proof.Machine

/-! ### While `BUSY = 1` -/

/-- While a command runs the port allows the reads of STATUS and CAP and nothing else. -/
theorem portAllows_iff_of_busy {s : State} {x : Txn} (hb : s.busy = true) :
    portAllows s x ↔ x = .read .csr 1 ∨ x = .read .csr 3 := by
  cases x with
  | read sp i =>
    cases sp with
    | csr =>
      have hindex : i < 4 ∧ (i = 1 ∨ i = 3) ↔ i = 1 ∨ i = 3 := and_iff_right_of_imp (by omega)
      simpa [portAllows, hb] using hindex
    | dmem | twt => simp [portAllows, hb]
  | writeCsr i w | writeDmem i v => simp [portAllows, hb]
  | writeTwt i v => simp [portAllows]

/-- Settles O41: the two reads that are allowed answer their register, all the rest is refused. -/
theorem onlyStatusAndCapWhileBusy : Obligations.OnlyStatusAndCapWhileBusy := by
  intro s x hb
  have hallows := portAllows_iff_of_busy (x := x) hb
  split
  · next hstatus =>
    subst hstatus
    exact hostTurn_read (hallows.2 (.inl rfl))
  · next hstatus =>
    split
    · next hcap =>
      subst hcap
      exact hostTurn_read (hallows.2 (.inr rfl))
    · next hcap => exact hostTurn_of_not_allows fun h => (hallows.1 h).elim hstatus hcap

/-! ### Reset -/

/-- CAP is made of the parameter alone, which reset keeps. -/
theorem capWord_resetNow (s : State) : s.resetNow.capWord = s.capWord := rfl

/-- Settles O53: reset writes the control state whatever it was; the registers a host reads follow from it, and with
`BUSY = 0` the port allows a CMD write. -/
theorem resetClearsControlState : Obligations.ResetClearsControlState := by
  intro s
  refine ⟨s.resetNow_busy, s.resetNow_done, s.resetNow_err, s.resetNow_cmd, s.resetNow_tblValid, s.resetNow_tblSize,
    s.resetNow_pend, ?status, ?twsize, capWord_resetNow s, rfl, fun hcfg => ?cap,
    fun w => portErr_eq_none_iff_portAllows.2 ⟨rfl, s.resetNow_busy⟩⟩
  case status => simp [State.statusWord]
  case twsize => simp [State.twsizeWord]
  case cap =>
    rw [capWord_resetNow, State.capWord, hcfg]
    decide

end Sys2Proof.Machine
end
